-- ==== Sys2Proof/Word.lean ====
section
/-! DEFINITION. Bytes, words and byte sequences (spec/00_scope.md R9): every value of the block is unsigned. -/

namespace Sys2Proof

/-- A byte, 0..255 (R9). -/
abbrev Byte := BitVec 8

/-- A 32-bit word, the spec's u32; bit 0 is the least significant (R9). -/
abbrev Word := BitVec 32

/-- `byte[n]`: n bytes with offsets 0..n-1, offset 0 the first received, stored or produced (R9). -/
abbrev Bytes (n : Nat) := Vector Byte n

/-- n zero bytes. -/
abbrev zeroBytes (n : Nat) : Bytes n := Vector.replicate n 0

/-- `add32(a, b) = (a + b) mod 2^32` (R9); the carry is dropped (R174). -/
abbrev add32 (a b : Word) : Word := a + b

end Sys2Proof
end

