-- ==== Sys2Proof/Machine/Datapath.lean ====
section
/-! DEFINITION. The internal datapath registers and the frame stack (spec/10_state.md R24 to R30), as one record of plain
data: no host access reads any of it (R41). -/

namespace Sys2Proof

/-- Number of primitives, the modulus of the selection (R5). -/
abbrev PRIMITIVE_COUNT : Nat := 11
/-- Frames of the recursion stack, equal to MAX_LEVEL (R8). -/
abbrev NFRAMES : Nat := 7
/-- Header length in bytes (R6). -/
abbrev HEADER_LEN : Nat := 80
/-- Digest length in bytes (R6). -/
abbrev DIGEST_LEN : Nat := 32
/-- Working-digest length in bytes (R6). -/
abbrev WORK_LEN : Nat := 64
/-- Length of the three-digest concatenation (R6). -/
abbrev COMBINED_LEN : Nat := 96

/-- The 80-byte header (R21). -/
abbrev Header := Bytes HEADER_LEN
/-- A 32-byte digest. -/
abbrev Digest := Bytes DIGEST_LEN
/-- A 64-byte working digest, the output of a primitive. -/
abbrev WorkDigest := Bytes WORK_LEN
/-- The 96-byte combine buffer. -/
abbrev Combined := Bytes COMBINED_LEN

namespace Machine

/-- One frame FR[d] of the recursion stack (R30). -/
structure Frame where
  /-- the node's nonce -/
  nonce : Word
  /-- the node's own leaf digest, `selfDigest` -/
  self  : Digest
  /-- nonce of the left child -/
  n1    : Word
  /-- nonce of the right child -/
  n2    : Word
  /-- `digestLeft` -/
  left  : Digest
  /-- `digestRight` -/
  right : Digest
  /-- children finished, 0..2 (R98: 3 never occurs) -/
  cs    : Fin 3
deriving DecidableEq, Repr, Inhabited

/-- The internal datapath (R24 to R28) and the frame stack (R30). -/
structure Datapath where
  /-- W, the working digest (R24) -/
  w   : WorkDigest
  /-- N, the iteration count, 3 bits (R25) -/
  n   : BitVec 3
  /-- I, the round index, 3 bits (R25) -/
  i   : BitVec 3
  /-- K, the selected primitive, 0..10 (R25, R97) -/
  k   : Fin PRIMITIVE_COUNT
  /-- LD, the leaf digest just produced (R26) -/
  ld  : Digest
  /-- RET, the return value of the node just finished (R27) -/
  ret : Digest
  /-- CB, the combine buffer (R28) -/
  cb  : Combined
  /-- T32, the first compression's output (R28) -/
  t32 : Digest
  /-- FR[0..6] (R30) -/
  fr  : Vector Frame NFRAMES
deriving DecidableEq, Repr, Inhabited

end Machine
end Sys2Proof
end

