-- ==== Sys2Proof/Syntax.lean ====
section
/-! DEFINITION. The block's operations (one constructor per row of spec/opcode_table.json, spec/30_encoding.md R103), the
encoded words of its three formats (R90), the sequencer's phases (R96), the host's accesses (spec/20_memory.md R62) and the
turns of the agents outside the sequencer (R70). -/

namespace Sys2Proof

/-- The 31 operations of spec/opcode_table.json. -/
inductive Instr where
  -- host commands, format CMD32 (R91)
  | nop
  | hclr
  | hpush (b : Byte)
  | leaf
  | tree (level : Byte)
  | pow
  | ack
  | srst
  -- sequencer micro-operations, format PHASE4 (R96)
  | lH0
  | lCnt
  | lSel
  | lRnd
  | lOut
  | tDisp
  | tDrift
  | tPush
  | tRet
  | cCat
  | cR1
  | cR2
  -- primitive selections, format SEL4 (R97)
  | h0
  | h1
  | h2
  | h3
  | h4
  | h5
  | h6
  | h7
  | h8
  | h9
  | h10
deriving DecidableEq, Repr

/-- The fifteen values PH holds (R22, R96); code 15 is never held. -/
inductive Phase where
  | idle
  | lH0
  | lCnt
  | lSel
  | lRnd
  | lOut
  | tDisp
  | tDrift
  | tPush
  | tRet
  | cCat
  | cR1
  | cR2
  | done
  | err
deriving DecidableEq, Repr, Inhabited

/-- An encoded word of one of the three formats (R90). A 4-bit code is not a word of its own: the phase register and the
selection register each give it their own meaning. -/
inductive CodeWord where
  /-- CMD32, a word written to CMD -/
  | cmd (c : Word)
  /-- PHASE4, the value of PH -/
  | phase (p : BitVec 4)
  /-- SEL4, the value of K -/
  | sel (k : BitVec 4)
deriving DecidableEq, Repr

/-- The registers of the register map (R61) that have an offset of their own. -/
inductive Reg where
  | cmd
  | status
  | errcode
  | errinfo
  | hcnt
  | leafcnt
  | ien
  | res (j : Fin 8)
  | hdrw (j : Fin 20)
deriving DecidableEq, Repr

/-- A host access `MemRead(off, len)` or `MemWrite(off, len, v)`, before its shape is checked (R62, R64). -/
inductive Access where
  | read (off len : Nat)
  | write (off len : Nat) (v : Word)
deriving DecidableEq, Repr

/-- One turn of the total order of steps (R70), as the model holds it (log 3). -/
inductive Turn where
  /-- the host makes one access -/
  | host (a : Access)
  /-- the hard reset input (R300) -/
  | hardReset
  /-- the sequencer takes its step, if it has one -/
  | seq
  /-- the host polls STATUS until BUSY = 0 (R101 `.wait`, R303 step 5; log 15) -/
  | wait
deriving DecidableEq, Repr

end Sys2Proof
end

