-- ==== Sys2Proof/Decode.lean ====
section
/-! DEFINITION. The decoder and the encoder of the three formats (spec/30_encoding.md R90 to R97). -/

namespace Sys2Proof

/-- Why a word is no operation. -/
inductive Reject where
  /-- a command word that matches no row of R91 (R93) -/
  | illegal
  /-- phase code 0, 13 or 14: IDLE, DONE and ERR have no micro-operation (R96) -/
  | noMicroOp
  /-- phase code 15, never held (R96) -/
  | reservedPhase
  /-- selection codes 11..15, never produced (R97) -/
  | reservedSelection
deriving DecidableEq, Repr

/-- The decoder's answer: the operation, or a rejection by name. -/
inductive Decoded where
  | instr (i : Instr)
  | reject (r : Reject)
deriving DecidableEq, Repr

/-- OPC, bits 7:0 of a command word (R90). -/
def opcField (c : Word) : Byte := c.extractLsb' 0 8
/-- ARG, bits 15:8 of a command word (R90). -/
def argField (c : Word) : Byte := c.extractLsb' 8 8
/-- RSV, bits 31:16 of a command word (R90). -/
def rsvField (c : Word) : BitVec 16 := c.extractLsb' 16 16

/-- A command that takes no argument: ARG must be 0 (R91, R93). -/
def plainCommand (arg : Byte) (i : Instr) : Decoded :=
  if arg = 0 then .instr i else .reject .illegal

/-- `decode(c)` of R93 for a word written to CMD, total on all 2^32 words. -/
def decodeCommand (c : Word) : Decoded :=
  if rsvField c ≠ 0 then .reject .illegal
  else
    match (opcField c).toNat with
    | 0x00 => plainCommand (argField c) .nop
    | 0x01 => plainCommand (argField c) .hclr
    | 0x02 => .instr (.hpush (argField c))
    | 0x10 => plainCommand (argField c) .leaf
    | 0x11 => .instr (.tree (argField c))
    | 0x12 => plainCommand (argField c) .pow
    | 0x20 => plainCommand (argField c) .ack
    | 0x7F => plainCommand (argField c) .srst
    | _ => .reject .illegal

/-- The micro-operation of a phase code (R96). -/
def decodePhase (p : BitVec 4) : Decoded :=
  match p.toNat with
  | 1 => .instr .lH0
  | 2 => .instr .lCnt
  | 3 => .instr .lSel
  | 4 => .instr .lRnd
  | 5 => .instr .lOut
  | 6 => .instr .tDisp
  | 7 => .instr .tDrift
  | 8 => .instr .tPush
  | 9 => .instr .tRet
  | 10 => .instr .cCat
  | 11 => .instr .cR1
  | 12 => .instr .cR2
  | 15 => .reject .reservedPhase
  | _ => .reject .noMicroOp

/-- The selection of a code of K (R97). -/
def decodeSelection (k : BitVec 4) : Decoded :=
  match k.toNat with
  | 0 => .instr .h0
  | 1 => .instr .h1
  | 2 => .instr .h2
  | 3 => .instr .h3
  | 4 => .instr .h4
  | 5 => .instr .h5
  | 6 => .instr .h6
  | 7 => .instr .h7
  | 8 => .instr .h8
  | 9 => .instr .h9
  | 10 => .instr .h10
  | _ => .reject .reservedSelection

/-- The decoder: total on every word of every format. -/
def decode : CodeWord → Decoded
  | .cmd c => decodeCommand c
  | .phase p => decodePhase p
  | .sel k => decodeSelection k

/-- The phase code of R96. -/
def Phase.code : Phase → BitVec 4
  | .idle => 0
  | .lH0 => 1
  | .lCnt => 2
  | .lSel => 3
  | .lRnd => 4
  | .lOut => 5
  | .tDisp => 6
  | .tDrift => 7
  | .tPush => 8
  | .tRet => 9
  | .cCat => 10
  | .cR1 => 11
  | .cR2 => 12
  | .done => 13
  | .err => 14

/-- The phase of a code; code 15 is none (R96). -/
def phaseOfCode (p : BitVec 4) : Option Phase :=
  match p.toNat with
  | 0 => some .idle
  | 1 => some .lH0
  | 2 => some .lCnt
  | 3 => some .lSel
  | 4 => some .lRnd
  | 5 => some .lOut
  | 6 => some .tDisp
  | 7 => some .tDrift
  | 8 => some .tPush
  | 9 => some .tRet
  | 10 => some .cCat
  | 11 => some .cR1
  | 12 => some .cR2
  | 13 => some .done
  | 14 => some .err
  | _ => none

/-- A command word from its opcode and argument, RSV zero (R90). -/
def commandWord (opc arg : Byte) : Word := 0#16 ++ arg ++ opc

/-- The encoder: the one word of an operation (R91, R96, R97). -/
def encode : Instr → CodeWord
  | .nop => .cmd (commandWord 0x00 0)
  | .hclr => .cmd (commandWord 0x01 0)
  | .hpush b => .cmd (commandWord 0x02 b)
  | .leaf => .cmd (commandWord 0x10 0)
  | .tree level => .cmd (commandWord 0x11 level)
  | .pow => .cmd (commandWord 0x12 0)
  | .ack => .cmd (commandWord 0x20 0)
  | .srst => .cmd (commandWord 0x7F 0)
  | .lH0 => .phase 1
  | .lCnt => .phase 2
  | .lSel => .phase 3
  | .lRnd => .phase 4
  | .lOut => .phase 5
  | .tDisp => .phase 6
  | .tDrift => .phase 7
  | .tPush => .phase 8
  | .tRet => .phase 9
  | .cCat => .phase 10
  | .cR1 => .phase 11
  | .cR2 => .phase 12
  | .h0 => .sel 0
  | .h1 => .sel 1
  | .h2 => .sel 2
  | .h3 => .sel 3
  | .h4 => .sel 4
  | .h5 => .sel 5
  | .h6 => .sel 6
  | .h7 => .sel 7
  | .h8 => .sel 8
  | .h9 => .sel 9
  | .h10 => .sel 10

/-- The match and mask of an operation's row of spec/opcode_table.json, in the row's own format (R91, R96, R97). -/
def tableRow : Instr → CodeWord × CodeWord
  | .nop => (.cmd 0x00000000, .cmd 0xFFFFFFFF)
  | .hclr => (.cmd 0x00000001, .cmd 0xFFFFFFFF)
  | .hpush _ => (.cmd 0x00000002, .cmd 0xFFFF00FF)
  | .leaf => (.cmd 0x00000010, .cmd 0xFFFFFFFF)
  | .tree _ => (.cmd 0x00000011, .cmd 0xFFFF00FF)
  | .pow => (.cmd 0x00000012, .cmd 0xFFFFFFFF)
  | .ack => (.cmd 0x00000020, .cmd 0xFFFFFFFF)
  | .srst => (.cmd 0x0000007F, .cmd 0xFFFFFFFF)
  | .lH0 => (.phase 0x1, .phase 0xF)
  | .lCnt => (.phase 0x2, .phase 0xF)
  | .lSel => (.phase 0x3, .phase 0xF)
  | .lRnd => (.phase 0x4, .phase 0xF)
  | .lOut => (.phase 0x5, .phase 0xF)
  | .tDisp => (.phase 0x6, .phase 0xF)
  | .tDrift => (.phase 0x7, .phase 0xF)
  | .tPush => (.phase 0x8, .phase 0xF)
  | .tRet => (.phase 0x9, .phase 0xF)
  | .cCat => (.phase 0xA, .phase 0xF)
  | .cR1 => (.phase 0xB, .phase 0xF)
  | .cR2 => (.phase 0xC, .phase 0xF)
  | .h0 => (.sel 0x0, .sel 0xF)
  | .h1 => (.sel 0x1, .sel 0xF)
  | .h2 => (.sel 0x2, .sel 0xF)
  | .h3 => (.sel 0x3, .sel 0xF)
  | .h4 => (.sel 0x4, .sel 0xF)
  | .h5 => (.sel 0x5, .sel 0xF)
  | .h6 => (.sel 0x6, .sel 0xF)
  | .h7 => (.sel 0x7, .sel 0xF)
  | .h8 => (.sel 0x8, .sel 0xF)
  | .h9 => (.sel 0x9, .sel 0xF)
  | .h10 => (.sel 0xA, .sel 0xF)

/-- `c and mask = match` of R91, for a word and a row of one format. -/
def rowMatches : CodeWord → CodeWord × CodeWord → Bool
  | .cmd c, (.cmd m, .cmd k) => c &&& k == m
  | .phase c, (.phase m, .phase k) => c &&& k == m
  | .sel c, (.sel m, .sel k) => c &&& k == m
  | _, _ => false

/-- The instruction of a decoder's answer, if it is one. -/
def Decoded.instr? : Decoded → Option Instr
  | .instr i => some i
  | .reject _ => none

/-- The instruction read from a table word of nbits bits. A CMD32 word is 32 bits. A 4-bit row is given 8 bits: PHASE4 and
SEL4 codes overlap there, so the word is read as a phase first (PH is what the sequencer fetches) and as a selection where
no phase has a micro-operation (DESIGN CHOICE, log 7). -/
def decodeTableWord (nbits w : Nat) : Option Instr :=
  if nbits = 32 then
    if w < 2 ^ 32 then (decode (.cmd (BitVec.ofNat 32 w))).instr? else none
  else if nbits = 8 ∨ nbits = 4 then
    if w < 16 then
      match decode (.phase (BitVec.ofNat 4 w)) with
      | .instr i => some i
      | .reject _ => (decode (.sel (BitVec.ofNat 4 w))).instr?
    else none
  else none

end Sys2Proof
end

