-- ==== Sys2Proof/Config.lean ====
section
/-! DEFINITION. What an implementation fixes (spec/00_scope.md R5 to R8) and the values the spec leaves open. An `opaque`
constant has no body: nothing can be proved of its value, so a claim holds whatever it is. -/

namespace Sys2Proof

/-- Smallest iteration count of the leaf chain (R5). -/
abbrev MIN_ITER : Nat := 2
/-- Largest iteration count of the leaf chain (R5). -/
abbrev MAX_ITER : Nat := 6
/-- Largest recursion level (R5). -/
abbrev MAX_LEVEL : Nat := 7
/-- Smallest recursion level, the terminal one (R5). -/
abbrev MIN_LEVEL : Nat := 1
/-- The modulus applied to a drift value (R5): a modulus, not a mask (R174). -/
abbrev MAX_DRIFT : Nat := 0xFFFF
/-- Length of the opaque prefix, header bytes 0..75 (R6). -/
abbrev PREFIX_LEN : Nat := 76
/-- Offset of the little-endian nonce in the header (R6). -/
abbrev NONCE_OFF : Nat := 76
/-- Offset in the working digest of the byte that sets the iteration count (R6). -/
abbrev ITER_BYTE_OFF : Nat := 63
/-- Modulus applied to the round index before it indexes the working digest (R6). -/
abbrev SEL_WRAP : Nat := 64
/-- Offset of drift value A in the node's own leaf digest (R6). -/
abbrev DRIFT_A_OFF : Nat := 24
/-- Offset of drift value B in the node's own leaf digest (R6). -/
abbrev DRIFT_B_OFF : Nat := 28

/-- The two external units as functions (R7, R230, R231): total, deterministic, of a message of any length. -/
structure Units where
  /-- `H(k, m)`: the 64-byte output of primitive k on message m -/
  h    : Fin PRIMITIVE_COUNT → List Byte → WorkDigest
  /-- `C256(m)`: one application of compress256 -/
  c256 : List Byte → Digest
deriving Inhabited

/-- Which child of a node: the one built from driftA or from driftB (R170). -/
inductive Child where
  | left
  | right
deriving DecidableEq, Repr, Inhabited

/-- The build parameter CHILD_ORDER (R8, R98). -/
inductive ChildOrder where
  | leftFirst
  | rightFirst
deriving DecidableEq, Repr, Inhabited

/-- DESIGN CHOICE (log 5), safe: the units the block is built with are not given; R7 makes them parameters. -/
opaque Config.units : Units

/-- DESIGN CHOICE (log 6), safe: CHILD_ORDER is open (R8, U1); a claim holds for both values. -/
opaque Config.childOrder : ChildOrder

/-- DESIGN CHOICE (log 1), safe: what the datapath and the frames hold after the r-th reset of a run. R40 says
"**unspecified**", so the value is free. -/
opaque Config.unspecified (r : Nat) : Machine.Datapath

end Sys2Proof
end

