-- ==== Sys2Proof/Machine/Octets.lean ====
section
/-! DEFINITION. Byte sequences: slices, concatenation and the little-endian helpers (spec/00_scope.md R9,
spec/44_external_units.md R234, R235). -/

namespace Sys2Proof.Machine

/-- `b[off .. off+len-1]`, in offset order (R9). -/
def slice {n : Nat} (b : Bytes n) (off len : Nat) (h : off + len ≤ n := by decide) : Bytes len :=
  Vector.ofFn fun j => b[off + j.val]'(Nat.lt_of_lt_of_le (Nat.add_lt_add_left j.isLt off) h)

/-- `le32dec`: the byte at the lowest offset is the least significant (R234). -/
def le32dec (b : Bytes 4) : Word := b[3] ++ b[2] ++ b[1] ++ b[0]

/-- `le32enc`: `b[i] = (v >> (8 * i)) and 0xFF` (R235). -/
def le32enc (v : Word) : Bytes 4 :=
  #v[v.extractLsb' 0 8, v.extractLsb' 8 8, v.extractLsb' 16 8, v.extractLsb' 24 8]

/-- The nonce of a header: little-endian at offset 76 (R65). -/
def headerNonce (h : Header) : Word := le32dec (slice h NONCE_OFF 4)

/-- Bytes 0..75 of the header followed by the nonce, little-endian (R120, R170 step 5). -/
def withNonce (h : Header) (v : Word) : Header := slice h 0 PREFIX_LEN ++ le32enc v

/-- `s || l || r`, 96 bytes in this order (R184, R185). -/
def concat3 (s l r : Digest) : Combined := s ++ l ++ r

/-- A drift value reduced: the remainder on division by 65535, not a mask (R174). -/
def reduceDrift (d : Word) : Word := BitVec.ofNat 32 (d.toNat % MAX_DRIFT)

/-- driftA of a leaf digest (R151). -/
def driftA (self : Digest) : Word := le32dec (slice self DRIFT_A_OFF 4)
/-- driftB of a leaf digest (R151). -/
def driftB (self : Digest) : Word := le32dec (slice self DRIFT_B_OFF 4)

/-- The nonce of the left child: `add32(nonce, driftA mod MAX_DRIFT)` (R151). -/
def leftNonce (nonce : Word) (self : Digest) : Word := add32 nonce (reduceDrift (driftA self))
/-- The nonce of the right child: `add32(nonce, driftB mod MAX_DRIFT)` (R151). -/
def rightNonce (nonce : Word) (self : Digest) : Word := add32 nonce (reduceDrift (driftB self))

/-- `MIN_ITER + (W[63] mod (MAX_ITER - MIN_ITER + 1))` (R121). -/
def iterCount (w : WorkDigest) : Nat :=
  MIN_ITER + w[ITER_BYTE_OFF].toNat % (MAX_ITER - MIN_ITER + 1)

/-- `W[i mod SEL_WRAP] mod PRIMITIVE_COUNT` (R122). -/
def selIndex (w : WorkDigest) (i : Nat) : Fin PRIMITIVE_COUNT :=
  ⟨(w[i % SEL_WRAP]'(Nat.mod_lt i (by decide))).toNat % PRIMITIVE_COUNT, Nat.mod_lt _ (by decide)⟩

/-- `W[0..31]` (R124). -/
def truncate (w : WorkDigest) : Digest := slice w 0 DIGEST_LEN

end Sys2Proof.Machine
end

