-- ==== Sys2Proof/Machine/State.lean ====
section
/-! DEFINITION. The state of the block (spec/10_state.md R20), the reasons a step can stop, and the state after reset (R40). -/

namespace Sys2Proof.Machine

/-- The error causes of R99. Codes 6..15 are never held. -/
inductive ErrCode where
  /-- no error -/
  | eNone
  /-- invalid input length (R261) -/
  | eLen
  /-- invalid level (R262) -/
  | eLevel
  /-- resource exhaustion: reserved, never raised (R263) -/
  | eAlloc
  /-- command while busy (R264) -/
  | eBusy
  /-- illegal command (R265) -/
  | eCmd
deriving DecidableEq, Repr, Inhabited

/-- Everything the block holds (R20), and the model's own three fields. -/
structure State where
  /-- PH, the sequencer phase, the stand-in for a program counter (R22) -/
  ph      : Phase
  /-- SP, the stack index, 3 bits, 0..6 (R23) -/
  sp      : Fin NFRAMES
  /-- ROOTLVL, the root level of the current or last run, 3 bits (R23) -/
  rootlvl : BitVec 3
  /-- LASTOP, the opcode byte of the last accepted start command (R36) -/
  lastop  : Byte
  /-- HCNT, the header byte counter, saturating at 255 (R21) -/
  hcnt    : BitVec 8
  /-- HDR, the header buffer (R21) -/
  hdr     : Header
  /-- RES, the result digest (R29) -/
  res     : Digest
  /-- ERRCODE (R33) -/
  errcode : ErrCode
  /-- ERRINFO, the offending command word (R33) -/
  errinfo : Word
  /-- LEAFCNT, the leaf-hash counter (R34) -/
  leafcnt : Word
  /-- IEN, the interrupt enables, bit 0 DONE_IE, bit 1 ERR_IE (R35) -/
  ien     : BitVec 2
  /-- W, N, I, K, LD, RET, CB, T32 and FR[0..6] (R24 to R30) -/
  dp      : Datapath
  /-- the MODEL's own: the turns to come, the next one first (log 3) -/
  turns   : List Turn
  /-- the MODEL's own: the word the last completed host read returned (log 14) -/
  rdata   : Option Word
  /-- the MODEL's own: resets taken so far, the index of the free values (log 1) -/
  resets  : Nat
deriving DecidableEq, Repr

/-- Why the machine stops. Neither is reached from reset (R31). -/
inductive Fault where
  /-- T_PUSH with SP = 6: there is no FR[7]. The spec states the precondition SP <= 5 and gives no effect outside it
  (R152). Raised by execTPush; safe. -/
  | stackOverflow
  /-- T_PUSH or T_RET where the frame's CS is 2: `child_sel` is defined for 0 and 1 only (R154). Raised by execTPush and
  execTRet; safe. -/
  | childSelUndefined
deriving DecidableEq, Repr

/-- Why the model gives no meaning. -/
inductive Refusal where
  /-- An instruction without a meaning yet; raised by no arm of exec. Safe. -/
  | notModelled (mnemonic : String)
  /-- A host access that is not one aligned 32-bit word inside the register space: the interface cannot express it and
  "any other call is refused by the model" (R64). Raised by hostAccess; safe. -/
  | notAWordAccess
deriving DecidableEq, Repr

/-- A frame of zeros. -/
def zeroFrame : Frame :=
  { nonce := 0, self := zeroBytes _, n1 := 0, n2 := 0, left := zeroBytes _, right := zeroBytes _, cs := 0 }

/-- The datapath of `State.reset`: zeros. DESIGN CHOICE (log 2), UNSAFE: R40 leaves these registers unspecified. -/
def zeroDatapath : Datapath :=
  { w := zeroBytes _, n := 0, i := 0, k := 0, ld := zeroBytes _, ret := zeroBytes _, cb := zeroBytes _,
    t32 := zeroBytes _, fr := Vector.replicate NFRAMES zeroFrame }

/-- The machine right after reset (R40, R301): IDLE, no header, no error, interrupts disabled. -/
def State.reset : State :=
  { ph := .idle, sp := 0, rootlvl := 0, lastop := 0, hcnt := 0, hdr := zeroBytes _, res := zeroBytes _,
    errcode := .eNone, errinfo := 0, leafcnt := 0, ien := 0, dp := zeroDatapath,
    turns := [], rdata := none, resets := 0 }

/-- The three outcomes of a step of this machine. -/
abbrev Outcome := Host.Outcome State Fault Refusal

end Sys2Proof.Machine
end

