-- ==== Sys2Proof/Machine/Flags.lean ====
section
/-! DEFINITION. The flags BUSY, DONE, ERR and HRDY, the STATUS view and the interrupt line (spec/10_state.md R32, R35;
spec/60_exceptions.md R268): functions of state, no storage of their own. -/

namespace Sys2Proof.Machine

/-- The busy phases, codes 1 to 12 (R96). -/
def isBusyPhase (p : Phase) : Bool := decide (1 ≤ p.code.toNat ∧ p.code.toNat ≤ 12)

/-- BUSY (R32). -/
def busyFlag (s : State) : Bool := isBusyPhase s.ph
/-- DONE (R32). -/
def doneFlag (s : State) : Bool := s.ph == .done
/-- ERR (R32). -/
def errFlag (s : State) : Bool := s.ph == .err
/-- HRDY (R32). -/
def hrdyFlag (s : State) : Bool := s.hcnt.toNat == HEADER_LEN

/-- SP as the 3-bit value STATUS shows (R32). -/
def spBits (s : State) : BitVec 3 := BitVec.ofNat 3 s.sp.val

/-- STATUS (R32): ROOTLVL, LASTOP, SP, PH, HRDY, ERR, DONE, BUSY, from the top, with the reserved bits zero. -/
def statusWord (s : State) : Word :=
  0#5 ++ s.rootlvl ++ s.lastop ++ 0#5 ++ spBits s ++ s.ph.code
    ++ BitVec.ofBool (hrdyFlag s) ++ BitVec.ofBool (errFlag s) ++ BitVec.ofBool (doneFlag s)
    ++ BitVec.ofBool (busyFlag s)

/-- The code of an error cause (R99). -/
def errorCode : ErrCode → BitVec 4
  | .eNone => 0
  | .eLen => 1
  | .eLevel => 2
  | .eAlloc => 3
  | .eBusy => 4
  | .eCmd => 5

/-- The output IRQ: `(IEN[0] and PH = DONE) or (IEN[1] and PH = ERR)` (R268). -/
def irqLine (s : State) : Bool :=
  (s.ien.getLsbD 0 && doneFlag s) || (s.ien.getLsbD 1 && errFlag s)

end Sys2Proof.Machine
end

