-- ==== Sys2Proof/Machine/Operands.lean ====
section
/-! DEFINITION. What the micro-operations read: the node's header, the level of the node, the child to evaluate, the message
of the primitive mux (spec/41_tree_controller.md R154, spec/40_leaf_engine.md R120, R136). -/

namespace Sys2Proof.Machine

/-- FR[d] (R30). -/
def frameAt (s : State) (d : Fin NFRAMES) : Frame := s.dp.fr[d.val]

/-- The current node's 80-byte header: `HDR[0..75] || le32enc(FR[SP].NONCE)` (R120). -/
def nodeHeader (s : State) : Header := withNonce s.hdr (frameAt s s.sp).nonce

/-- `CURLVL = MIN_LEVEL`, that is ROOTLVL - SP = 1: the node is terminal (R150). -/
def isTerminal (s : State) : Bool := s.rootlvl.toNat == s.sp.val + MIN_LEVEL

/-- The child evaluated first (R154). -/
def firstChild : ChildOrder → Child
  | .leftFirst => .left
  | .rightFirst => .right
/-- The child evaluated second (R154). -/
def secondChild : ChildOrder → Child
  | .leftFirst => .right
  | .rightFirst => .left

/-- `child_sel(cs)`, "for cs in {0, 1}" and for no other value (R154). -/
def childSel (o : ChildOrder) (cs : Fin 3) : Option Child :=
  match cs.val with
  | 0 => some (firstChild o)
  | 1 => some (secondChild o)
  | _ => none

/-- The nonce of a frame's child (R152). -/
def childNonce : Child → Frame → Word
  | .left, f => f.n1
  | .right, f => f.n2

/-- File a child's digest in its parent's frame, under its own name (R153, R185). -/
def fileChild : Child → Digest → Frame → Frame
  | .left, d, f => { f with left := d }
  | .right, d, f => { f with right := d }

/-- The message the mux drives (R136): in L_H0 the node's header, else the 64 bytes of W. -/
def muxMessage (s : State) : List Byte :=
  if s.ph = .lH0 then (nodeHeader s).toList else s.dp.w.toList

end Sys2Proof.Machine
end

