-- ==== Sys2Proof/Machine/Ops.lean ====
section
/-! DEFINITION. The operations the meanings share: the error entry and the return from it (spec/60_exceptions.md R270, R272),
reset (spec/70_reset_and_hazards.md R301), the start sequence (spec/43_host_commands.md R209), the dispatch gate (R208), the
primitive mux (spec/40_leaf_engine.md R136) and the frame write. -/

namespace Sys2Proof.Machine

/-- The error entry `raise E_X(c)` (R270): the code and the offending word are recorded and PH becomes ERR. Nothing else
changes: "no state is saved, because nothing needs restoring". -/
def raiseError (e : ErrCode) (c : Word) (s : State) : State :=
  { s with errcode := e, errinfo := c, ph := .err }

/-- The return from an error (R206, R272): ERRCODE and ERRINFO are cleared and PH becomes IDLE. -/
def returnFromError (s : State) : State :=
  { s with errcode := .eNone, errinfo := 0, ph := .idle }

/-- SRST and the hard reset (R301): every register takes its value of R40. The datapath and the frames are unspecified, so
they hold the next free value (log 1); the outside world's own turns and the word it read are not the block's (log 3, 14). -/
def resetBlock (s : State) : State :=
  { State.reset with
    dp := Config.unspecified s.resets, turns := s.turns, rdata := s.rdata, resets := s.resets + 1 }

/-- Write FR[d]. -/
def putFrame (s : State) (d : Fin NFRAMES) (f : Frame) : State :=
  { s with dp.fr := s.dp.fr.set d.val f d.isLt }

/-- The effect of an accepted start at `level` (R209). -/
def startRun (level : Nat) (c : Word) (s : State) : State :=
  { putFrame s 0 { frameAt s 0 with nonce := headerNonce s.hdr } with
    res := zeroBytes _, leafcnt := 0, sp := 0, rootlvl := BitVec.ofNat 3 level, lastop := opcField c, ph := .lH0 }

/-- `START(level, c)` (R209): E_LEN is checked first, then E_LEVEL. -/
def startSequence (level : Nat) (c : Word) (s : State) : State :=
  if s.hcnt.toNat ≠ HEADER_LEN then raiseError .eLen c s
  else if level < MIN_LEVEL ∨ MAX_LEVEL < level then raiseError .eLevel c s
  else startRun level c s

/-- Lines 3, 4 and 6 of the dispatch (R208) for a legal command that is neither SRST, NOP nor ACK: dropped in ERR, E_BUSY
while busy, its own effect in IDLE and DONE. -/
def gateCommand (c : Word) (own : State → State) (s : State) : State :=
  if s.ph = .err then s
  else if busyFlag s then raiseError .eBusy c s
  else own s

/-- A word that decodes to ILLEGAL (R93, R208 lines 3 to 5): dropped in ERR, E_BUSY while busy, else E_CMD. -/
def illegalCommand (c : Word) (s : State) : State :=
  gateCommand c (raiseError .eCmd c) s

/-- Append one header byte (R202): bytes beyond the 80th are discarded, the counter saturates at 255. -/
def pushByte (b : Byte) (s : State) : State :=
  { s with
    hdr := if h : s.hcnt.toNat < HEADER_LEN then s.hdr.set s.hcnt.toNat b h else s.hdr
    hcnt := BitVec.ofNat 8 (min (s.hcnt.toNat + 1) 255) }

/-- One call of primitive k on a message, its 64 bytes stored in W in the same step (R136, R233). -/
def callPrimitive (U : Units) (k : Fin PRIMITIVE_COUNT) (m : List Byte) (s : State) : State :=
  { s with dp.w := U.h k m }

end Sys2Proof.Machine
end

