-- ==== Sys2Proof/Machine/Combine.lean ====
section
/-! DEFINITION. The micro-operations of the digest combiner: C_CAT, C_R1, C_R2 (spec/42_combiner.md R180 to R182). None raises
an error or changes a flag. -/

namespace Sys2Proof.Machine

/-- C_CAT (R180): SELF, LEFT and RIGHT of the node's frame, in this order. -/
def combineCat (s : State) : State :=
  let f := frameAt s s.sp
  { s with dp.cb := concat3 f.self f.left f.right, ph := .cR1 }

/-- C_R1 (R181): the first compression, of all 96 bytes of CB. -/
def combineFirst (U : Units) (s : State) : State :=
  { s with dp.t32 := U.c256 s.dp.cb.toList, ph := .cR2 }

/-- C_R2 (R182): the second compression, of the 32 bytes of T32. -/
def combineSecond (U : Units) (s : State) : State :=
  { s with dp.ret := U.c256 s.dp.t32.toList, ph := .tRet }

/-- The instruction C_CAT. -/
def execCCat (s : State) : Outcome := .next (combineCat s)
/-- The instruction C_R1. -/
def execCR1 (s : State) : Outcome := .next (combineFirst Config.units s)
/-- The instruction C_R2. -/
def execCR2 (s : State) : Outcome := .next (combineSecond Config.units s)

end Sys2Proof.Machine
end

