-- ==== Sys2Proof/Machine/Command.lean ====
section
/-! DEFINITION. The eight host commands, each with the dispatch order of spec/43_host_commands.md R208 applied to it:
R200 to R207. A command's word c is the one its encoding gives (R91). -/

namespace Sys2Proof.Machine

/-- HCLR's own effect (R201). -/
def clearCounter (s : State) : State := { s with hcnt := 0 }

/-- ACK (R206, R208 lines 3 and 4): in ERR the return from the error, in DONE back to IDLE, in IDLE nothing, while busy
E_BUSY. -/
def acknowledge (c : Word) (s : State) : State :=
  if s.ph = .err then returnFromError s
  else if busyFlag s then raiseError .eBusy c s
  else if s.ph = .done then { s with ph := .idle }
  else s

/-- NOP (R200): nothing, in any phase. -/
def execNop (s : State) : Outcome := .next s
/-- HCLR (R201). -/
def execHclr (s : State) : Outcome := .next (gateCommand (commandWord 0x01 0) clearCounter s)
/-- HPUSH b (R202). -/
def execHpush (b : Byte) (s : State) : Outcome := .next (gateCommand (commandWord 0x02 b) (pushByte b) s)
/-- LEAF (R203): `START(1, c)`. -/
def execLeaf (s : State) : Outcome :=
  .next (gateCommand (commandWord 0x10 0) (startSequence MIN_LEVEL (commandWord 0x10 0)) s)
/-- TREE level (R204): `START(level, c)`, the level zero-extended (R92). -/
def execTree (level : Byte) (s : State) : Outcome :=
  .next (gateCommand (commandWord 0x11 level) (startSequence level.toNat (commandWord 0x11 level)) s)
/-- POW (R205): `START(MAX_LEVEL, c)`. -/
def execPow (s : State) : Outcome :=
  .next (gateCommand (commandWord 0x12 0) (startSequence MAX_LEVEL (commandWord 0x12 0)) s)
/-- ACK (R206). -/
def execAck (s : State) : Outcome := .next (acknowledge (commandWord 0x20 0) s)
/-- SRST (R207): the reset, from any phase. -/
def execSrst (s : State) : Outcome := .next (resetBlock s)

end Sys2Proof.Machine
end

