-- ==== Sys2Proof/Machine/Leaf.lean ====
section
/-! DEFINITION. The micro-operations of the X11KV leaf-hash engine: L_H0, L_CNT, L_SEL, L_RND, L_OUT
(spec/40_leaf_engine.md R120 to R124). None can raise an error. PH is taken to hold the operation's own code (log 13). -/

namespace Sys2Proof.Machine

/-- L_H0 (R120): the first primitive pass over the node's header, select forced to 0. -/
def leafFirstPass (U : Units) (s : State) : State :=
  { callPrimitive U 0 (nodeHeader s).toList s with leafcnt := s.leafcnt + 1, ph := .lCnt }

/-- L_CNT (R121): the iteration count, from W[63]. -/
def leafCount (s : State) : State :=
  { s with dp.n := BitVec.ofNat 3 (iterCount s.dp.w), dp.i := 1, ph := .lSel }

/-- L_SEL (R122): while I < N select the next primitive from W[I mod 64], else leave the loop; K then keeps its value. -/
def leafSelect (s : State) : State :=
  if s.dp.i.toNat < s.dp.n.toNat then { s with dp.k := selIndex s.dp.w s.dp.i.toNat, ph := .lRnd }
  else { s with ph := .lOut }

/-- L_RND (R123): one selected round over all 64 bytes of the old W. -/
def leafRound (U : Units) (s : State) : State :=
  { callPrimitive U s.dp.k s.dp.w.toList s with dp.i := s.dp.i + 1, ph := .lSel }

/-- L_OUT (R124): the first 32 bytes of W. -/
def leafOut (s : State) : State :=
  { s with dp.ld := truncate s.dp.w, ph := .tDisp }

/-- The instruction L_H0. -/
def execLH0 (s : State) : Outcome := .next (leafFirstPass Config.units s)
/-- The instruction L_CNT. -/
def execLCnt (s : State) : Outcome := .next (leafCount s)
/-- The instruction L_SEL. -/
def execLSel (s : State) : Outcome := .next (leafSelect s)
/-- The instruction L_RND. -/
def execLRnd (s : State) : Outcome := .next (leafRound Config.units s)
/-- The instruction L_OUT. -/
def execLOut (s : State) : Outcome := .next (leafOut s)

end Sys2Proof.Machine
end

