-- ==== Sys2Proof/Machine/Select.lean ====
section
/-! DEFINITION. The eleven selections of the primitive mux (spec/40_leaf_engine.md R125 to R136). A selection is the call
`H(k, m)` with its 64 bytes returned into W, and nothing else: it is the part of an L_H0 or L_RND step that the mux does, and
the micro-operation around it moves I, LEAFCNT and PH (log 9). -/

namespace Sys2Proof.Machine

/-- H0 (R125): the call `H(0, m)`, from L_H0 with the 80-byte header, else with the 64-byte W. -/
def execH0 (s : State) : Outcome := .next (callPrimitive Config.units 0 (muxMessage s) s)
/-- H1 (R126): the call `H(1, W)`, message length 64. -/
def execH1 (s : State) : Outcome := .next (callPrimitive Config.units 1 s.dp.w.toList s)
/-- H2 (R127): the call `H(2, W)`, message length 64. -/
def execH2 (s : State) : Outcome := .next (callPrimitive Config.units 2 s.dp.w.toList s)
/-- H3 (R128): the call `H(3, W)`, message length 64. -/
def execH3 (s : State) : Outcome := .next (callPrimitive Config.units 3 s.dp.w.toList s)
/-- H4 (R129): the call `H(4, W)`, message length 64. -/
def execH4 (s : State) : Outcome := .next (callPrimitive Config.units 4 s.dp.w.toList s)
/-- H5 (R130): the call `H(5, W)`, message length 64. -/
def execH5 (s : State) : Outcome := .next (callPrimitive Config.units 5 s.dp.w.toList s)
/-- H6 (R131): the call `H(6, W)`, message length 64. -/
def execH6 (s : State) : Outcome := .next (callPrimitive Config.units 6 s.dp.w.toList s)
/-- H7 (R132): the call `H(7, W)`, message length 64. -/
def execH7 (s : State) : Outcome := .next (callPrimitive Config.units 7 s.dp.w.toList s)
/-- H8 (R133): the call `H(8, W)`, message length 64. -/
def execH8 (s : State) : Outcome := .next (callPrimitive Config.units 8 s.dp.w.toList s)
/-- H9 (R134): the call `H(9, W)`, message length 64. -/
def execH9 (s : State) : Outcome := .next (callPrimitive Config.units 9 s.dp.w.toList s)
/-- H10 (R135): the call `H(10, W)`, message length 64. -/
def execH10 (s : State) : Outcome := .next (callPrimitive Config.units 10 s.dp.w.toList s)

end Sys2Proof.Machine
end

