-- ==== Sys2Proof/Machine/Tree.lean ====
section
/-! DEFINITION. The micro-operations of the X11KVS tree-hash controller: T_DISP, T_DRIFT, T_PUSH, T_RET
(spec/41_tree_controller.md R150 to R153). None raises an error. -/

namespace Sys2Proof.Machine

/-- T_DISP (R150): a terminal node returns its leaf digest, an internal one keeps it as SELF. -/
def treeDispatch (s : State) : State :=
  if isTerminal s then { s with dp.ret := s.dp.ld, ph := .tRet }
  else { putFrame s s.sp { frameAt s s.sp with self := s.dp.ld } with ph := .tDrift }

/-- T_DRIFT (R151): the two child nonces from the node's own digest; no child is finished. -/
def treeDrift (s : State) : State :=
  let f := frameAt s s.sp
  { putFrame s s.sp
      { f with n1 := leftNonce f.nonce f.self, n2 := rightNonce f.nonce f.self, cs := 0 } with
    ph := .tPush }

/-- The state after a call of child `c` at stack index `d` (R152). -/
def enterChild (c : Child) (d : Fin NFRAMES) (s : State) : State :=
  { putFrame s d { frameAt s d with nonce := childNonce c (frameAt s s.sp) } with sp := d, ph := .lH0 }

/-- T_PUSH (R152): the call of the next child. Outside its precondition (SP <= 5, CS in 0..1), which holds in every run
(R31), the spec gives no effect: a fault (log 11). -/
def treePush (o : ChildOrder) (s : State) : Outcome :=
  match childSel o (frameAt s s.sp).cs with
  | none => .fault .childSelUndefined
  | some c =>
    if h : s.sp.val + 1 < NFRAMES then .next (enterChild c ⟨s.sp.val + 1, h⟩ s)
    else .fault .stackOverflow

/-- The state after the root has returned (R153, SP = 0): RES and PH change in one step. -/
def finishRun (s : State) : State := { s with res := s.dp.ret, ph := .done }

/-- The state after a child `c` has returned to the parent's frame `p` (R153): RET is filed under the child's own name, CS
counts it, and the sequencer combines when both are done. -/
def leaveChild (c : Child) (p : Fin NFRAMES) (s : State) : State :=
  let f := frameAt s p
  { putFrame s p { fileChild c s.dp.ret f with cs := f.cs + 1 } with
    sp := p, ph := if f.cs.val + 1 = 2 then .cCat else .tPush }

/-- The parent's stack index. -/
def parentOf (d : Fin NFRAMES) : Fin NFRAMES := ⟨d.val - 1, Nat.lt_of_le_of_lt (Nat.sub_le _ _) d.isLt⟩

/-- T_RET (R153): finish the run at SP = 0, else return to the parent. A parent with CS = 2 has no child left to return
(R31 rules it out; R154 leaves child_sel undefined there): a fault (log 11). -/
def treeReturn (o : ChildOrder) (s : State) : Outcome :=
  if s.sp.val = 0 then .next (finishRun s)
  else
    match childSel o (frameAt s (parentOf s.sp)).cs with
    | none => .fault .childSelUndefined
    | some c => .next (leaveChild c (parentOf s.sp) s)

/-- The instruction T_DISP. -/
def execTDisp (s : State) : Outcome := .next (treeDispatch s)
/-- The instruction T_DRIFT. -/
def execTDrift (s : State) : Outcome := .next (treeDrift s)
/-- The instruction T_PUSH. -/
def execTPush (s : State) : Outcome := treePush Config.childOrder s
/-- The instruction T_RET. -/
def execTRet (s : State) : Outcome := treeReturn Config.childOrder s

end Sys2Proof.Machine
end

