-- ==== Sys2Proof/Machine/Dispatch.lean ====
section
/-! DEFINITION. The dispatch: one arm per operation of spec/opcode_table.json. -/

namespace Sys2Proof.Machine

/-- The meaning of an operation in a state. -/
def exec (i : Instr) (s : State) : Host.Outcome State Fault Refusal :=
  match i with
  | .nop => Sys2Proof.Machine.execNop s
  | .hclr => Sys2Proof.Machine.execHclr s
  | .hpush b => Sys2Proof.Machine.execHpush b s
  | .leaf => Sys2Proof.Machine.execLeaf s
  | .tree level => Sys2Proof.Machine.execTree level s
  | .pow => Sys2Proof.Machine.execPow s
  | .ack => Sys2Proof.Machine.execAck s
  | .srst => Sys2Proof.Machine.execSrst s
  | .lH0 => Sys2Proof.Machine.execLH0 s
  | .lCnt => Sys2Proof.Machine.execLCnt s
  | .lSel => Sys2Proof.Machine.execLSel s
  | .lRnd => Sys2Proof.Machine.execLRnd s
  | .lOut => Sys2Proof.Machine.execLOut s
  | .tDisp => Sys2Proof.Machine.execTDisp s
  | .tDrift => Sys2Proof.Machine.execTDrift s
  | .tPush => Sys2Proof.Machine.execTPush s
  | .tRet => Sys2Proof.Machine.execTRet s
  | .cCat => Sys2Proof.Machine.execCCat s
  | .cR1 => Sys2Proof.Machine.execCR1 s
  | .cR2 => Sys2Proof.Machine.execCR2 s
  | .h0 => Sys2Proof.Machine.execH0 s
  | .h1 => Sys2Proof.Machine.execH1 s
  | .h2 => Sys2Proof.Machine.execH2 s
  | .h3 => Sys2Proof.Machine.execH3 s
  | .h4 => Sys2Proof.Machine.execH4 s
  | .h5 => Sys2Proof.Machine.execH5 s
  | .h6 => Sys2Proof.Machine.execH6 s
  | .h7 => Sys2Proof.Machine.execH7 s
  | .h8 => Sys2Proof.Machine.execH8 s
  | .h9 => Sys2Proof.Machine.execH9 s
  | .h10 => Sys2Proof.Machine.execH10 s

end Sys2Proof.Machine
end

