-- ==== Sys2Proof/WellFormed.lean ====
section
/-! DEFINITION. What a term must satisfy before the block can be given it. An `Instr` is well formed by its type: its only
arguments are the 8-bit ARG fields of HPUSH and TREE, and every value of them is encodable (spec/30_encoding.md R92: the
levels 0 and 8..255 are rejected at execution, not here). A host access has a shape to check (spec/20_memory.md R64). -/

namespace Sys2Proof

/-- Every instruction of this type is encodable (R92). -/
def Instr.wellFormed : Instr → Bool
  | .nop | .hclr | .hpush _ | .leaf | .tree _ | .pow | .ack | .srst => true
  | .lH0 | .lCnt | .lSel | .lRnd | .lOut | .tDisp | .tDrift | .tPush | .tRet | .cCat | .cR1 | .cR2 => true
  | .h0 | .h1 | .h2 | .h3 | .h4 | .h5 | .h6 | .h7 | .h8 | .h9 | .h10 => true

/-- One aligned 32-bit word inside 0x000..0xFFF (R62, R64). -/
def wordShape (off len : Nat) : Bool :=
  len == 4 && off % 4 == 0 && decide (off ≤ 0xFFC)

/-- An access the register interface can express (R64). -/
def Access.wellFormed : Access → Bool
  | .read off len => wordShape off len
  | .write off len _ => wordShape off len

end Sys2Proof
end

