-- ==== Sys2Proof/Machine/Ports.lean ====
section
/-! DEFINITION. The register space (spec/20_memory.md R60 to R68), the command dispatch (spec/43_host_commands.md R208) and one
turn of each agent (R70). -/

namespace Sys2Proof.Machine

/-- The register at an offset (R61); none at a reserved one (R63). -/
def regAt (off : Nat) : Option Reg :=
  if off = 0x000 then some .cmd
  else if off = 0x004 then some .status
  else if off = 0x008 then some .errcode
  else if off = 0x00C then some .errinfo
  else if off = 0x010 then some .hcnt
  else if off = 0x014 then some .leafcnt
  else if off = 0x018 then some .ien
  else if h : 0x020 ≤ off ∧ off < 0x040 then some (.res ⟨(off - 0x020) / 4, by omega⟩)
  else if h : 0x040 ≤ off ∧ off < 0x090 then some (.hdrw ⟨(off - 0x040) / 4, by omega⟩)
  else none

/-- The offset of a register (R61). -/
def regOffset : Reg → Nat
  | .cmd => 0x000
  | .status => 0x004
  | .errcode => 0x008
  | .errinfo => 0x00C
  | .hcnt => 0x010
  | .leafcnt => 0x014
  | .ien => 0x018
  | .res j => 0x020 + 4 * j.val
  | .hdrw j => 0x040 + 4 * j.val

/-- RESj: result bytes 4j..4j+3, packed little-endian (R38). -/
def resWord (s : State) (j : Fin 8) : Word := le32dec (slice s.res (4 * j.val) 4 (by unfold DIGEST_LEN; omega))
/-- HDRWj: header bytes 4j..4j+3, packed little-endian (R38). -/
def hdrWord (s : State) (j : Fin 20) : Word := le32dec (slice s.hdr (4 * j.val) 4 (by unfold HEADER_LEN; omega))

/-- What a register shows (R61): the bits above a field read zero (R33, R35), CMD reads 0 (R37). -/
def readReg (s : State) : Reg → Word
  | .cmd => 0
  | .status => statusWord s
  | .errcode => (errorCode s.errcode).setWidth 32
  | .errinfo => s.errinfo
  | .hcnt => s.hcnt.setWidth 32
  | .leafcnt => s.leafcnt
  | .ien => s.ien.setWidth 32
  | .res j => resWord s j
  | .hdrw j => hdrWord s j

/-- `MemRead(off, 4)` (R62): the value the register shows; a reserved offset reads zero (R63). -/
def memRead (s : State) (off : Nat) : Word :=
  match regAt off with
  | some r => readReg s r
  | none => 0

/-- The command dispatch (R208) on a word written to CMD. -/
def dispatchWord (c : Word) (s : State) : Outcome :=
  match decode (.cmd c) with
  | .instr i => exec i s
  | .reject _ => .next (illegalCommand c s)

/-- `MemWrite(off, 4, v)` (R62): CMD dispatches, IEN takes v[1:0], every other offset ignores the write (R63). -/
def memWrite (off : Nat) (v : Word) (s : State) : Outcome :=
  match regAt off with
  | some .cmd => dispatchWord v s
  | some .ien => .next { s with ien := v.extractLsb' 0 2 }
  | _ => .next s

/-- One host access (R62). A read leaves the block as it is and its word is the host's (log 14); an access of another shape
is refused (R64). -/
def hostAccess (a : Access) (s : State) : Outcome :=
  if a.wellFormed then
    match a with
    | .read off _ => .next { s with rdata := some (memRead s off) }
    | .write off _ v => memWrite off v s
  else .refused .notAWordAccess

/-- One turn of the sequencer (R11): the micro-operation whose code PH holds; in IDLE, DONE and ERR it has no step. -/
def sequencerTurn (s : State) : Outcome :=
  match decode (.phase s.ph.code) with
  | .instr i => exec i s
  | .reject _ => .next s

/-- One turn of the queue. `wait` stays until BUSY = 0, letting the sequencer step; its last poll returns STATUS (log 15). -/
def takeTurn (t : Turn) (rest : List Turn) (s : State) : Outcome :=
  match t with
  | .host a => hostAccess a { s with turns := rest }
  | .hardReset => .next (resetBlock { s with turns := rest })
  | .seq => sequencerTurn { s with turns := rest }
  | .wait =>
    if busyFlag s then sequencerTurn s
    else .next { s with turns := rest, rdata := some (statusWord s) }

/-- One step of the total order (R70): the next turn of the queue; with none left the sequencer goes on, and a block with
no run idles (R75, R279; log 4). -/
def nextTurn (s : State) : Outcome :=
  match s.turns with
  | [] => sequencerTurn s
  | t :: rest => takeTurn t rest s

/-- The state in which the next step runs a table word (log 8): a command word is the host's next write to CMD; a phase code
is put in PH, a selection code in K with PH = L_RND, and the sequencer has the next turn. -/
def placeWord (s : State) (nbits w : Nat) : State :=
  if nbits = 32 then { s with turns := .host (.write 0x000 4 (BitVec.ofNat 32 w)) :: s.turns }
  else
    match decodeTableWord nbits w, phaseOfCode (BitVec.ofNat 4 w) with
    | some .h0, _ => { s with ph := .lRnd, dp.k := 0, turns := .seq :: s.turns }
    | some _, some p => { s with ph := p, turns := .seq :: s.turns }
    | _, _ => s

end Sys2Proof.Machine
end

