-- ==== Sys2Proof/Machine/Step.lean ====
section
/-! DEFINITION. One step of the machine (spec/20_memory.md R70). -/

namespace Sys2Proof.Machine

/-- One atomic step of the total order (R70): `nextTurn`. -/
def step (s : State) : Host.Outcome State Fault Refusal := nextTurn s

/-- s with a table word placed where the next step fetches it: `placeWord` (log 8). -/
def State.withFetchWord (s : State) (nbits w : Nat) : State := placeWord s nbits w

end Sys2Proof.Machine
end

