-- ==== Sys2Proof/Machine/Assembler.lean ====
section
/-! DEFINITION. The assembler syntax and its pseudo-instructions (spec/30_encoding.md R101, R102) and the IEN directive: a line
is the host accesses it stands for. -/

namespace Sys2Proof.Machine

/-- One line of a host program (R101, R102). -/
inductive AsmLine where
  | nop
  | hclr
  /-- `hpush b`, b in 0..255 -/
  | hpush (b : Byte)
  | leaf
  /-- `tree l`, l in 0..255: "the assembler does not reject illegal levels" -/
  | tree (l : Byte)
  | pow
  | ack
  | srst
  /-- `.word w` -/
  | word (w : Word)
  /-- `.wait` -/
  | wait
  /-- `.read name` -/
  | read (r : Reg)
  /-- `.ien v` -/
  | ien (v : Word)
  /-- `hload b0 b1 …`, of any length -/
  | hload (bs : List Byte)
  /-- `hloadz`: eighty zero bytes -/
  | hloadz
deriving DecidableEq, Repr

/-- A host write of a word to CMD. -/
def writeCmd (c : Word) : Turn := .host (.write 0x000 4 c)

/-- `hclr` followed by one `hpush` per byte, in offset order (R102). -/
def loadTurns (bs : List Byte) : List Turn :=
  writeCmd (commandWord 0x01 0) :: bs.map fun b => writeCmd (commandWord 0x02 b)

/-- What a line assembles to (R101, R102). -/
def assembleLine : AsmLine → List Turn
  | .nop => [writeCmd (commandWord 0x00 0)]
  | .hclr => [writeCmd (commandWord 0x01 0)]
  | .hpush b => [writeCmd (commandWord 0x02 b)]
  | .leaf => [writeCmd (commandWord 0x10 0)]
  | .tree l => [writeCmd (commandWord 0x11 l)]
  | .pow => [writeCmd (commandWord 0x12 0)]
  | .ack => [writeCmd (commandWord 0x20 0)]
  | .srst => [writeCmd (commandWord 0x7F 0)]
  | .word w => [writeCmd w]
  | .wait => [.wait]
  | .read r => [.host (.read (regOffset r) 4)]
  | .ien v => [.host (.write 0x018 4 v)]
  | .hload bs => loadTurns bs
  | .hloadz => loadTurns (List.replicate HEADER_LEN 0)

/-- A host program: its lines in order. -/
def assemble (p : List AsmLine) : List Turn := p.flatMap assembleLine

end Sys2Proof.Machine
end

