-- ==== Sys2Proof/Machine/Functional.lean ====
section
/-! DEFINITION. The functional definitions (spec/00_scope.md R12): `leafHash` (R140), `combine` (R184), `treeHash` (R170),
`powHash` (R220), and the step counts of R312. They are normative; no step of the machine calls them. -/

namespace Sys2Proof.Machine

/-- Rounds i, i+1, …, `left` of them (R140 step 3): each hashes the whole working digest with the primitive that byte
`i mod 64` of it selects. -/
def leafRounds (U : Units) : (left : Nat) → (i : Nat) → WorkDigest → WorkDigest
  | 0, _, w => w
  | left + 1, i, w => leafRounds U left (i + 1) (U.h (selIndex w i) w.toList)

/-- The first working digest `H(0, h)` (R140 step 1). -/
def firstDigest (U : Units) (h : Header) : WorkDigest := U.h 0 h.toList

/-- The iteration count of a header's leaf hash (R140 step 2). -/
def leafIters (U : Units) (h : Header) : Nat := iterCount (firstDigest U h)

/-- `leafHash(h)` (R140). -/
def leafHash (U : Units) (h : Header) : Digest :=
  truncate (leafRounds U (leafIters U h - 1) 1 (firstDigest U h))

/-- `combine(s, dl, dr) = C256(C256(s || dl || dr))` (R184). -/
def combine (U : Units) (s dl dr : Digest) : Digest :=
  U.c256 (U.c256 (concat3 s dl dr).toList).toList

/-- The headers of the two children of a node (R170 steps 2 to 5). -/
def leftHeader (U : Units) (h : Header) : Header := withNonce h (leftNonce (headerNonce h) (leafHash U h))
/-- See `leftHeader`. -/
def rightHeader (U : Units) (h : Header) : Header := withNonce h (rightNonce (headerNonce h) (leafHash U h))

/-- `treeHash(h, level)` at level `depth + 1` (R170). -/
def treeHashAt (U : Units) : (depth : Nat) → Header → Digest
  | 0, h => leafHash U h
  | depth + 1, h =>
    combine U (leafHash U h) (treeHashAt U depth (leftHeader U h)) (treeHashAt U depth (rightHeader U h))

/-- `treeHash(h, level)`, "defined for level in 1..7" and for no other level (R170, U3). -/
def treeHash (U : Units) (h : Header) (level : Nat) : Option Digest :=
  if MIN_LEVEL ≤ level ∧ level ≤ MAX_LEVEL then some (treeHashAt U (level - 1) h) else none

/-- `powHash(h) = treeHash(h, 7)` (R220). -/
def powHash (U : Units) (h : Header) : Digest := treeHashAt U (MAX_LEVEL - 1) h

/-- S of R312: the sum of the iteration counts over the nodes of the tree at level `depth + 1`. -/
def treeIters (U : Units) : (depth : Nat) → Header → Nat
  | 0, h => leafIters U h
  | depth + 1, h => leafIters U h + treeIters U depth (leftHeader U h) + treeIters U depth (rightHeader U h)

/-- The headers evaluated by the call tree at level `depth + 1`, one per node: the node, its left subtree, its right
subtree (R171, R176). Nothing is shared between equal headers (R175). -/
def treeHeaders (U : Units) : (depth : Nat) → Header → List Header
  | 0, h => [h]
  | depth + 1, h => h :: (treeHeaders U depth (leftHeader U h) ++ treeHeaders U depth (rightHeader U h))

/-- Sequencer steps of a run at root level `depth + 1` (R312): `2n + 4` for a terminal node, `2n + 10` of its own for an
internal one. -/
def treeSteps (U : Units) : (depth : Nat) → Header → Nat
  | 0, h => 2 * leafIters U h + 4
  | depth + 1, h =>
    2 * leafIters U h + 10 + treeSteps U depth (leftHeader U h) + treeSteps U depth (rightHeader U h)

end Sys2Proof.Machine
end

