-- ==== Sys2Proof/Safety.lean ====
section
/-! DEFINITION. The terms claims use: a run, the host's view, turns that leave a run or an error alone, and the invariants of
spec/10_state.md R31, R33 and R34. -/

namespace Sys2Proof.Machine

/-- k steps, stopping at the first fault or refusal. -/
def runSteps : Nat → State → Outcome
  | 0, s => .next s
  | k + 1, s =>
    match step s with
    | .next t => runSteps k t
    | .fault r => .fault r
    | .refused r => .refused r

/-- The little-endian value of four bytes, the lowest offset first (R234). -/
def leNat (b0 b1 b2 b3 : Byte) : Nat :=
  b0.toNat + 256 * b1.toNat + 65536 * b2.toNat + 16777216 * b3.toNat

/-- The level a start command asks for (R203 to R205); none for the other operations. -/
def startLevel : Instr → Option Nat
  | .leaf => some 1
  | .tree level => some level.toNat
  | .pow => some 7
  | _ => none

/-- The opcode byte of a start command (R91). -/
def startOpcode : Instr → Byte
  | .leaf => 0x10
  | .tree _ => 0x11
  | _ => 0x12

/-- Everything but the internal datapath, which no host access reads (R41), and the model's reset counter. -/
def hostView (s : State) : State := { s with dp := zeroDatapath, resets := 0 }

/-- An outcome as the host sees it. -/
def outcomeView : Outcome → Outcome
  | .next s => .next (hostView s)
  | .fault r => .fault r
  | .refused r => .refused r

/-- A turn that issues no command other than NOP: a sequencer step, a register read, a write elsewhere than to CMD, a NOP
(R173, R304). -/
def quietTurn : Turn → Bool
  | .seq => true
  | .host (.read off len) => wordShape off len
  | .host (.write off len v) => wordShape off len && (off != 0 || v == 0)
  | .hardReset => false
  | .wait => false

/-- A turn that cannot leave phase ERR: everything but ACK, SRST and the hard reset (R273). -/
def keepsError : Turn → Bool
  | .seq => true
  | .host (.read off len) => wordShape off len
  | .host (.write off len v) => wordShape off len && (off != 0 || (v != 0x20 && v != 0x7F))
  | .hardReset => false
  | .wait => true

/-- ERRCODE and ERRINFO describe an error exactly in phase ERR; E_ALLOC is never held (R33, R263). -/
abbrev ErrInv (s : State) : Prop :=
  (s.ph = .err ↔ s.errcode ≠ .eNone) ∧ s.errcode ≠ .eAlloc ∧ (s.ph ≠ .err → s.errinfo = 0)

/-- The phases in which N and I hold the current chain's count and round (R25). -/
abbrev inLoop (p : Phase) : Prop := p = .lSel ∨ p = .lRnd

/-- The phases only an internal node passes through (R150 to R152, R180 to R182). -/
abbrev inInternal (p : Phase) : Prop :=
  p = .tDrift ∨ p = .tPush ∨ p = .cCat ∨ p = .cR1 ∨ p = .cR2

/-- What holds throughout a run (R31): the level and the stack index in range, the finished-child counts of the frames below
and of the current frame, the loop registers, the loaded header, RES zero (R305) and LASTOP a start opcode (R36). -/
abbrev RunInv (s : State) : Prop :=
  busyFlag s = true →
    (1 ≤ s.rootlvl.toNat ∧ s.sp.val + 1 ≤ s.rootlvl.toNat)
    ∧ (∀ d : Fin NFRAMES, d.val < s.sp.val → (frameAt s d).cs.val ≤ 1)
    ∧ (inInternal s.ph → s.sp.val + 2 ≤ s.rootlvl.toNat)
    ∧ (s.ph = .tPush → (frameAt s s.sp).cs.val ≤ 1)
    ∧ (s.ph = .cCat → (frameAt s s.sp).cs.val = 2)
    ∧ (inLoop s.ph → 2 ≤ s.dp.n.toNat ∧ s.dp.n.toNat ≤ 6 ∧ 1 ≤ s.dp.i.toNat ∧ s.dp.i.toNat ≤ s.dp.n.toNat)
    ∧ (s.ph = .lRnd → s.dp.i.toNat < s.dp.n.toNat)
    ∧ s.hcnt.toNat = 80 ∧ s.res = zeroBytes _
    ∧ (s.lastop = 0x10 ∨ s.lastop = 0x11 ∨ s.lastop = 0x12)

/-- Leaf hashes evaluated in the subtree of the current node so far, itself included. -/
def leavesHere (s : State) : Nat :=
  match s.ph with
  | .lCnt | .lSel | .lRnd | .lOut | .tDisp | .tDrift => 1
  | .tPush => 1 + (frameAt s s.sp).cs.val * (2 ^ (s.rootlvl.toNat - s.sp.val - 1) - 1)
  | .tRet | .cCat | .cR1 | .cR2 => 2 ^ (s.rootlvl.toNat - s.sp.val) - 1
  | .lH0 | .idle | .done | .err => 0

/-- Leaf hashes the run has evaluated so far: each node on the path below SP has its own and those of its finished child
subtrees. -/
def leavesDone (s : State) : Nat :=
  ((List.finRange NFRAMES).map fun d =>
    if d.val < s.sp.val then
      1 + (frameAt s d).cs.val * (2 ^ (s.rootlvl.toNat - d.val - 1) - 1)
    else 0).sum + leavesHere s

/-- LEAFCNT counts the run's leaf hashes, is `2^l - 1` when the run is complete, and "never exceeds 127" (R34, R276). -/
abbrev LeafInv (s : State) : Prop :=
  (busyFlag s = true → s.leafcnt.toNat = leavesDone s)
  ∧ (s.ph = .done → 1 ≤ s.rootlvl.toNat ∧ s.leafcnt.toNat = 2 ^ s.rootlvl.toNat - 1)
  ∧ s.leafcnt.toNat ≤ 127

end Sys2Proof.Machine
end

