-- ==== Sys2Proof/Certificates/Slice0/Obligations.lean ====
section
/-! DEFINITION. The statements about the X11KV/X11KVS hash block. Each names the rule of spec/ it formalises. Registers are
compared as the numbers the spec writes; a frame is written as an equation: the next state is the old one but for the fields
named. -/

open Sys2Proof Sys2Proof.Machine

/-! Encoding -/

/-- Every operation has exactly one word and every word that decodes is that word (30_encoding.md sections 2, 4, 5, 6):
no bit of an encoding is dropped. -/
def Obligations.DecodeInvertsEncode : Prop :=
  ∀ (w : CodeWord) (i : Instr), decode w = .instr i ↔ w = encode i

/-- 30_encoding.md section 2 (R91): a word selects a row when `c and mask = match`, the rows are disjoint, ARG is bits 15:8;
section 4 (R93): a word that selects no row is ILLEGAL. -/
def Obligations.CommandDecodeFollowsTable : Prop :=
  (∀ c : Word,
    (∃ i, decode (.cmd c) = .instr i ∧ rowMatches (.cmd c) (tableRow i) = true)
    ∨ ((∀ i, rowMatches (.cmd c) (tableRow i) = false) ∧ decode (.cmd c) = .reject .illegal))
  ∧ (∀ (c : Word) (i j : Instr), rowMatches (.cmd c) (tableRow i) = true → rowMatches (.cmd c) (tableRow j) = true →
      tableRow i = tableRow j)
  ∧ (∀ (c : Word) (b : Byte), decode (.cmd c) = .instr (.hpush b) ∨ decode (.cmd c) = .instr (.tree b) →
      b.toNat = c.toNat / 256 % 256)

/-- R94: the spec's own examples of decode; the two TREE words decode and then raise E_LEVEL. -/
def Obligations.SpecExamplesDecode : Prop :=
  decode (.cmd 0x00000000) = .instr .nop
  ∧ decode (.cmd 0x0000AB02) = .instr (.hpush 0xAB)
  ∧ decode (.cmd 0x00000711) = .instr (.tree 7)
  ∧ decode (.cmd 0x00000011) = .instr (.tree 0)
  ∧ decode (.cmd 0x0000FF11) = .instr (.tree 255)
  ∧ decode (.cmd 0x00000112) = .reject .illegal
  ∧ decode (.cmd 0x00010012) = .reject .illegal
  ∧ decode (.cmd 0x00000003) = .reject .illegal
  ∧ decode (.cmd 0x0001007F) = .reject .illegal
  ∧ ∀ s : State, s.ph = .idle ∨ s.ph = .done → s.hcnt = 80 → ∀ c : Word, c = 0x00000011 ∨ c = 0x0000FF11 →
      dispatchWord c s = .next { s with errcode := .eLevel, errinfo := c, ph := .err }

/-! Host commands -/

/-- R200: NOP changes no state, in any phase; its word with ARG 1 is ILLEGAL. -/
def Obligations.NopChangesNothing : Prop :=
  encode .nop = .cmd 0x00000000 ∧ decode (.cmd 0x00000100) = .reject .illegal
  ∧ ∀ s : State, exec .nop s = .next s

/-- R201: HCLR clears HCNT and nothing else in IDLE and DONE (HRDY becomes 0), raises E_BUSY when busy, is dropped in ERR. A
start right after it raises E_LEN, so stale header bytes enter no run. -/
def Obligations.HclrClearsCounter : Prop :=
  encode .hclr = .cmd 0x00000001
  ∧ ∀ s : State,
    (s.ph = .idle ∨ s.ph = .done →
      ∃ t, exec .hclr s = .next t ∧ t = { s with hcnt := t.hcnt } ∧ t.hcnt.toNat = 0 ∧ hrdyFlag t = false
        ∧ ∀ i level c, startLevel i = some level → encode i = .cmd c →
            exec i t = .next { t with errcode := .eLen, errinfo := c, ph := .err })
    ∧ (busyFlag s = true → exec .hclr s = .next { s with errcode := .eBusy, errinfo := 0x00000001, ph := .err })
    ∧ (s.ph = .err → exec .hclr s = .next s)

/-- R202: HPUSH stores the byte at HDR[HCNT] if HCNT < 80, counts it with saturation at 255, and touches nothing else;
E_BUSY when busy, dropped in ERR. -/
def Obligations.HpushAppendsByte : Prop :=
  ∀ (b : Byte) (s : State),
    encode (.hpush b) = .cmd (BitVec.ofNat 32 (256 * b.toNat + 2))
    ∧ (s.ph = .idle ∨ s.ph = .done →
      ∃ t, exec (.hpush b) s = .next t ∧ t = { s with hdr := t.hdr, hcnt := t.hcnt }
        ∧ t.hcnt.toNat = min (s.hcnt.toNat + 1) 255
        ∧ (∀ j : Fin 80, t.hdr[j.val] = if j.val = s.hcnt.toNat then b else s.hdr[j.val])
        ∧ (hrdyFlag t = true ↔ t.hcnt.toNat = 80))
    ∧ (busyFlag s = true → exec (.hpush b) s =
        .next { s with errcode := .eBusy, errinfo := BitVec.ofNat 32 (256 * b.toNat + 2), ph := .err })
    ∧ (s.ph = .err → exec (.hpush b) s = .next s)

/-- R209: the start sequence of LEAF, TREE and POW in IDLE and DONE. With HCNT = 80 and a level in 1..7 it completes; E_LEN
is checked first, then E_LEVEL, and a failed check changes nothing but the error record and PH. -/
def Obligations.StartSequenceStartsRun : Prop :=
  ∀ (i : Instr) (level : Nat) (c : Word) (s : State), startLevel i = some level → encode i = .cmd c →
    s.ph = .idle ∨ s.ph = .done →
    (s.hcnt.toNat = 80 → 1 ≤ level → level ≤ 7 →
      ∃ t, exec i s = .next t
        ∧ t = { s with ph := t.ph, sp := t.sp, rootlvl := t.rootlvl, lastop := t.lastop, res := t.res,
                       leafcnt := t.leafcnt, dp := { s.dp with fr := t.dp.fr } }
        ∧ t.ph = .lH0 ∧ t.sp.val = 0 ∧ t.rootlvl.toNat = level ∧ t.leafcnt.toNat = 0
        ∧ t.lastop.toNat = c.toNat % 256 ∧ t.lastop = startOpcode i
        ∧ (∀ j : Fin 32, t.res[j.val] = 0)
        ∧ frameAt t 0 = { frameAt s 0 with nonce := (frameAt t 0).nonce }
        ∧ (frameAt t 0).nonce.toNat = leNat s.hdr[76] s.hdr[77] s.hdr[78] s.hdr[79]
        ∧ (∀ d : Fin 7, d ≠ 0 → frameAt t d = frameAt s d)
        ∧ busyFlag t = true ∧ doneFlag t = false)
    ∧ (s.hcnt.toNat ≠ 80 → exec i s = .next { s with errcode := .eLen, errinfo := c, ph := .err })
    ∧ (s.hcnt.toNat = 80 → (level < 1 ∨ 7 < level) →
        exec i s = .next { s with errcode := .eLevel, errinfo := c, ph := .err })

/-- R206: ACK in ERR clears the error record and goes to IDLE, in DONE goes to IDLE, in IDLE does nothing, raises E_BUSY when
busy; IRQ falls with the flag it leaves. -/
def Obligations.AckLeavesDoneAndErr : Prop :=
  encode .ack = .cmd 0x00000020
  ∧ ∀ s : State,
    (s.ph = .err → exec .ack s = .next { s with errcode := .eNone, errinfo := 0, ph := .idle })
    ∧ (s.ph = .done → exec .ack s = .next { s with ph := .idle })
    ∧ (s.ph = .idle → exec .ack s = .next s)
    ∧ (busyFlag s = true → exec .ack s = .next { s with errcode := .eBusy, errinfo := 0x00000020, ph := .err })
    ∧ (∀ t, s.ph = .err ∨ s.ph = .done → exec .ack s = .next t →
        errFlag t = false ∧ doneFlag t = false ∧ irqLine t = false)

/-- R301, R207: SRST and the hard reset, from any phase, in one step, give every host-visible register its reset value. What
the queue and the read word of the model hold is not touched. The datapath is unspecified: nothing is said of it. -/
def Obligations.BothResetsGiveResetValues : Prop :=
  encode .srst = .cmd 0x0000007F ∧ decode (.cmd 0x0000017F) = .reject .illegal
  ∧ ∀ s : State,
    (∃ t, exec .srst s = .next t ∧ hostView t = { hostView State.reset with turns := s.turns, rdata := s.rdata }
      ∧ statusWord t = 0 ∧ irqLine t = false)
    ∧ (∀ rest, s.turns = .hardReset :: rest →
        ∃ t, step s = .next t ∧ hostView t = { hostView State.reset with turns := rest, rdata := s.rdata }
          ∧ statusWord t = 0 ∧ irqLine t = false)

/-- R40: the values after reset of the registers R40 gives a value. That of the datapath is unspecified there; the zeros of
State.reset are the model's (log 2) and no clause here is about them. -/
def Obligations.ResetStateValues : Prop :=
  State.reset.ph = .idle ∧ State.reset.sp = 0 ∧ State.reset.rootlvl = 0 ∧ State.reset.lastop = 0
  ∧ State.reset.hcnt = 0 ∧ (∀ j : Fin 80, State.reset.hdr[j.val] = 0) ∧ (∀ j : Fin 32, State.reset.res[j.val] = 0)
  ∧ State.reset.errcode = .eNone ∧ State.reset.errinfo = 0 ∧ State.reset.leafcnt = 0 ∧ State.reset.ien = 0
  ∧ irqLine State.reset = false ∧ statusWord State.reset = 0x00000000

/-- R208: the dispatch of a word written to CMD, the first line that applies deciding: SRST, NOP, phase ERR (ACK or dropped),
busy (E_BUSY with the offending word), ILLEGAL (E_CMD), else the command's own rule. -/
def Obligations.DispatchOrder : Prop :=
  ∀ (c : Word) (s : State),
    (c = 0x0000007F → dispatchWord c s = exec .srst s)
    ∧ (c = 0x00000000 → dispatchWord c s = .next s)
    ∧ (c ≠ 0x0000007F → c ≠ 0x00000000 →
        (s.ph = .err → c = 0x00000020 → dispatchWord c s = exec .ack s)
        ∧ (s.ph = .err → c ≠ 0x00000020 → dispatchWord c s = .next s)
        ∧ (busyFlag s = true → dispatchWord c s = .next { s with errcode := .eBusy, errinfo := c, ph := .err })
        ∧ (s.ph = .idle ∨ s.ph = .done →
            (decode (.cmd c) = .reject .illegal →
              dispatchWord c s = .next { s with errcode := .eCmd, errinfo := c, ph := .err })
            ∧ ∀ i, decode (.cmd c) = .instr i → dispatchWord c s = exec i s))

/-- R264: any command word but NOP and SRST, legal or ILLEGAL, written during a run is recorded and abandons the run: the
sequencer has no further step, RES stays all zero, LEAFCNT and the internal registers keep what they held. -/
def Obligations.CommandWhileBusyLosesRun : Prop :=
  ∀ (c : Word) (s : State), RunInv s → busyFlag s = true → c ≠ 0x0000007F → c ≠ 0x00000000 →
    ∃ t, dispatchWord c s = .next t ∧ t = { s with errcode := .eBusy, errinfo := c, ph := .err }
      ∧ (errorCode t.errcode).toNat = 4 ∧ (∀ j : Fin 32, t.res[j.val] = 0) ∧ sequencerTurn t = .next t

/-- R260, R270: an error is raised only by the step that takes a host write to CMD, it records that write's word, its code is
one of E_LEN, E_LEVEL, E_BUSY, E_CMD, and nothing else changes. No micro-operation raises one. -/
def Obligations.ErrorsArePrecise : Prop :=
  ∀ s t : State, step s = .next t → s.ph ≠ .err → t.ph = .err →
    ∃ c rest, s.turns = .host (.write 0 4 c) :: rest
      ∧ t = { s with turns := rest, errcode := t.errcode, errinfo := c, ph := .err }
      ∧ (t.errcode = .eLen ∨ t.errcode = .eLevel ∨ t.errcode = .eBusy ∨ t.errcode = .eCmd)
      ∧ errFlag t = true ∧ busyFlag t = false ∧ doneFlag t = false
      ∧ (s.ien.getLsbD 1 = true → irqLine t = true)

/-- R273: errors do not nest. In phase ERR any number of turns that are no ACK, SRST or hard reset leave the block in ERR with
the same record; only IEN can change (and the model's queue and read word). -/
def Obligations.FirstErrorIsKept : Prop :=
  ∀ (ts rest : List Turn) (s : State), s.ph = .err → s.turns = ts ++ rest → (∀ t ∈ ts, keepsError t = true) →
    ∃ u, runSteps ts.length s = .next u
      ∧ u = { s with ien := u.ien, turns := rest, rdata := u.rdata }

/-! The leaf engine -/

/-- R120: L_H0. -/
def Obligations.LH0FirstPass : Prop :=
  encode .lH0 = .phase 1
  ∧ ∀ s : State, ∃ t hdr, exec .lH0 s = .next t
    ∧ t = { s with ph := .lCnt, leafcnt := t.leafcnt, dp := { s.dp with w := t.dp.w } }
    ∧ t.dp.w = Config.units.h 0 hdr ∧ hdr.length = 80
    ∧ hdr = (s.hdr.toList.take 76) ++ (le32enc (frameAt s s.sp).nonce).toList
    ∧ t.leafcnt.toNat = (s.leafcnt.toNat + 1) % 2 ^ 32
    ∧ (s.sp = 0 → (frameAt s 0).nonce = le32dec #v[s.hdr[76], s.hdr[77], s.hdr[78], s.hdr[79]] → hdr = s.hdr.toList)
    ∧ (s.ph = .lH0 → busyFlag t = busyFlag s ∧ doneFlag t = doneFlag s ∧ errFlag t = errFlag s)

/-- R121: L_CNT. -/
def Obligations.LCntSetsIterationCount : Prop :=
  encode .lCnt = .phase 2
  ∧ ∀ s : State, ∃ t, exec .lCnt s = .next t
    ∧ t = { s with ph := .lSel, dp := { s.dp with n := t.dp.n, i := t.dp.i } }
    ∧ t.dp.n.toNat = 2 + (s.dp.w[63]).toNat % 5 ∧ t.dp.i.toNat = 1
    ∧ (s.ph = .lCnt → busyFlag t = busyFlag s ∧ doneFlag t = doneFlag s ∧ errFlag t = errFlag s)

/-- R122: L_SEL. -/
def Obligations.LSelSelectsPrimitive : Prop :=
  encode .lSel = .phase 3
  ∧ ∀ s : State, ∃ t, exec .lSel s = .next t
    ∧ t = { s with ph := t.ph, dp := { s.dp with k := t.dp.k } }
    ∧ (s.dp.i.toNat < s.dp.n.toNat →
        t.dp.k.val = (s.dp.w[s.dp.i.toNat % 64]'(Nat.mod_lt _ (by decide))).toNat % 11 ∧ t.ph = .lRnd)
    ∧ (s.dp.n.toNat ≤ s.dp.i.toNat → t.dp.k = s.dp.k ∧ t.ph = .lOut)
    ∧ (s.ph = .lSel → busyFlag t = busyFlag s ∧ doneFlag t = doneFlag s ∧ errFlag t = errFlag s)

/-- R123: L_RND. I is a 3-bit register; in a run I + 1 is at most 6 (R144). -/
def Obligations.LRndHashesWorkingDigest : Prop :=
  encode .lRnd = .phase 4
  ∧ ∀ s : State, ∃ t, exec .lRnd s = .next t
    ∧ t = { s with ph := .lSel, dp := { s.dp with w := t.dp.w, i := t.dp.i } }
    ∧ t.dp.w = Config.units.h s.dp.k s.dp.w.toList ∧ s.dp.w.toList.length = 64
    ∧ t.dp.i.toNat = (s.dp.i.toNat + 1) % 8
    ∧ (s.ph = .lRnd → busyFlag t = busyFlag s ∧ doneFlag t = doneFlag s ∧ errFlag t = errFlag s)

/-- R124: L_OUT. -/
def Obligations.LOutTruncates : Prop :=
  encode .lOut = .phase 5
  ∧ ∀ s : State, ∃ t, exec .lOut s = .next t
    ∧ t = { s with ph := .tDisp, dp := { s.dp with ld := t.dp.ld } }
    ∧ (∀ j : Fin 32, t.dp.ld[j.val] = s.dp.w[j.val]'(Nat.lt_trans j.isLt (by decide)))
    ∧ (s.ph = .lOut → busyFlag t = busyFlag s ∧ doneFlag t = doneFlag s ∧ errFlag t = errFlag s)

/-- R125 to R135: each selection is one call of its own primitive, its 64 bytes stored in W; H0 takes the 80-byte header in
phase L_H0 and the 64-byte W otherwise. That nothing but W moves is the model's reading of a selection as an operation of
its own (log 9). -/
def Obligations.SelectionsCallTheirPrimitive : Prop :=
  ∀ s : State,
    (s.ph = .lH0 → exec .h0 s = .next { s with dp := { s.dp with w := Config.units.h 0 (nodeHeader s).toList } })
    ∧ (s.ph ≠ .lH0 → exec .h0 s = .next { s with dp := { s.dp with w := Config.units.h 0 s.dp.w.toList } })
    ∧ exec .h1 s = .next { s with dp := { s.dp with w := Config.units.h 1 s.dp.w.toList } }
    ∧ exec .h2 s = .next { s with dp := { s.dp with w := Config.units.h 2 s.dp.w.toList } }
    ∧ exec .h3 s = .next { s with dp := { s.dp with w := Config.units.h 3 s.dp.w.toList } }
    ∧ exec .h4 s = .next { s with dp := { s.dp with w := Config.units.h 4 s.dp.w.toList } }
    ∧ exec .h5 s = .next { s with dp := { s.dp with w := Config.units.h 5 s.dp.w.toList } }
    ∧ exec .h6 s = .next { s with dp := { s.dp with w := Config.units.h 6 s.dp.w.toList } }
    ∧ exec .h7 s = .next { s with dp := { s.dp with w := Config.units.h 7 s.dp.w.toList } }
    ∧ exec .h8 s = .next { s with dp := { s.dp with w := Config.units.h 8 s.dp.w.toList } }
    ∧ exec .h9 s = .next { s with dp := { s.dp with w := Config.units.h 9 s.dp.w.toList } }
    ∧ exec .h10 s = .next { s with dp := { s.dp with w := Config.units.h 10 s.dp.w.toList } }

/-- 40_leaf_engine.md section 3 (R136): in phase L_RND the selection that K encodes is the one whose call the step makes; in
phase L_H0 it is H0 whatever K is. The step adds only I, LEAFCNT and PH. -/
def Obligations.RoundRunsTheSelectedPrimitive : Prop :=
  ∀ s : State,
    (s.ph = .lRnd → ∃ j u, decode (.sel (BitVec.ofNat 4 s.dp.k.val)) = .instr j ∧ exec j s = .next u
      ∧ exec .lRnd s = .next { u with dp := { u.dp with i := s.dp.i + 1 }, ph := .lSel })
    ∧ (s.ph = .lH0 → ∃ u, exec .h0 s = .next u
      ∧ exec .lH0 s = .next { u with leafcnt := s.leafcnt + 1, ph := .lCnt })

/-- R143: from L_H0 the engine reaches T_DISP in exactly `2n + 2` steps with LD the functional leaf hash of the node's header,
LEAFCNT one larger, and SP, HDR, RES and every frame unchanged. On the way its phases are L_H0, L_CNT, then L_SEL and L_RND
alternating n - 1 times, then L_SEL, L_OUT. Outside the datapath only PH and LEAFCNT change; of the datapath the statement
gives LD and keeps the frames, and says nothing of W, N, I, K, RET, CB and T32, as R143 says nothing of them. The premise that
the queue is empty is the model's choice (log 4): it makes every one of these steps a sequencer step. -/
def Obligations.LeafEngineComputesLeafHash : Prop :=
  ∀ s : State, s.ph = .lH0 → s.turns = [] →
    ∃ t, runSteps (2 * leafIters Config.units (nodeHeader s) + 2) s = .next t
      ∧ t = { s with ph := .tDisp, leafcnt := s.leafcnt + 1, dp := { t.dp with fr := s.dp.fr } }
      ∧ t.dp.ld = leafHash Config.units (nodeHeader s)
      ∧ ∀ j, j < 2 * leafIters Config.units (nodeHeader s) + 2 → ∃ u, runSteps j s = .next u
          ∧ u.ph = (if j = 0 then .lH0 else if j = 1 then .lCnt
                    else if j = 2 * leafIters Config.units (nodeHeader s) + 1 then .lOut
                    else if j % 2 = 0 then .lSel else .lRnd)

/-! The tree controller -/

/-- R150: T_DISP. -/
def Obligations.TDispSplitsTerminalAndInternal : Prop :=
  encode .tDisp = .phase 6
  ∧ ∀ s : State, ∃ t, exec .tDisp s = .next t
    ∧ (s.rootlvl.toNat = s.sp.val + 1 → t = { s with ph := .tRet, dp := { s.dp with ret := s.dp.ld } })
    ∧ (s.rootlvl.toNat ≠ s.sp.val + 1 →
        t = { s with ph := .tDrift, dp := { s.dp with fr := t.dp.fr } }
        ∧ frameAt t s.sp = { frameAt s s.sp with self := s.dp.ld }
        ∧ ∀ d : Fin 7, d ≠ s.sp → frameAt t d = frameAt s d)
    ∧ (s.ph = .tDisp → busyFlag t = busyFlag s ∧ doneFlag t = doneFlag s ∧ errFlag t = errFlag s)

/-- R151: T_DRIFT. -/
def Obligations.TDriftDerivesChildNonces : Prop :=
  encode .tDrift = .phase 7
  ∧ ∀ s : State, ∃ t, exec .tDrift s = .next t
    ∧ t = { s with ph := .tPush, dp := { s.dp with fr := t.dp.fr } }
    ∧ (∀ d : Fin 7, d ≠ s.sp → frameAt t d = frameAt s d)
    ∧ frameAt t s.sp = { frameAt s s.sp with n1 := (frameAt t s.sp).n1, n2 := (frameAt t s.sp).n2, cs := 0 }
    ∧ (let f := frameAt s s.sp
       (frameAt t s.sp).n1.toNat =
          (f.nonce.toNat + leNat f.self[24] f.self[25] f.self[26] f.self[27] % 65535) % 2 ^ 32
       ∧ (frameAt t s.sp).n2.toNat =
          (f.nonce.toNat + leNat f.self[28] f.self[29] f.self[30] f.self[31] % 65535) % 2 ^ 32)
    ∧ (s.ph = .tDrift → busyFlag t = busyFlag s ∧ doneFlag t = doneFlag s ∧ errFlag t = errFlag s)

/-- R152, R154: T_PUSH within its stated precondition. The child evaluated as the (CS+1)-th is LEFT first or RIGHT first by
CHILD_ORDER. -/
def Obligations.TPushCallsNextChild : Prop :=
  encode .tPush = .phase 8
  ∧ ∀ s : State, (frameAt s s.sp).cs.val ≤ 1 → s.sp.val ≤ 5 →
    ∃ t, exec .tPush s = .next t
      ∧ t = { s with ph := .lH0, sp := t.sp, dp := { s.dp with fr := t.dp.fr } }
      ∧ t.sp.val = s.sp.val + 1
      ∧ (∀ d : Fin 7, d ≠ t.sp → frameAt t d = frameAt s d)
      ∧ frameAt t t.sp = { frameAt s t.sp with nonce := (frameAt t t.sp).nonce }
      ∧ (frameAt t t.sp).nonce =
          (if ((frameAt s s.sp).cs.val = 0 ↔ Config.childOrder = .leftFirst) then (frameAt s s.sp).n1
           else (frameAt s s.sp).n2)
      ∧ (s.ph = .tPush → busyFlag t = busyFlag s ∧ doneFlag t = doneFlag s ∧ errFlag t = errFlag s)

/-- R153, R154: T_RET. At SP = 0 RES and PH change in one step; below, RET is filed in the parent's frame under the child's
own name, CS counts it, and the other child or C_CAT follows. -/
def Obligations.TRetReturnsToParent : Prop :=
  encode .tRet = .phase 9
  ∧ (∀ s : State, s.sp.val = 0 →
      exec .tRet s = .next { s with res := s.dp.ret, ph := .done }
      ∧ ∀ t, exec .tRet s = .next t → busyFlag t = false ∧ doneFlag t = true
          ∧ (s.ien.getLsbD 0 = true → irqLine t = true))
  ∧ ∀ (s : State) (p : Fin 7), s.sp.val = p.val + 1 → (frameAt s p).cs.val ≤ 1 →
      ∃ t, exec .tRet s = .next t
        ∧ t = { s with ph := t.ph, sp := p, dp := { s.dp with fr := t.dp.fr } }
        ∧ (∀ d : Fin 7, d ≠ p → frameAt t d = frameAt s d)
        ∧ (frameAt t p).cs.val = (frameAt s p).cs.val + 1
        ∧ ((frameAt s p).cs.val = 1 → t.ph = .cCat) ∧ ((frameAt s p).cs.val = 0 → t.ph = .tPush)
        ∧ frameAt t p =
            (if ((frameAt s p).cs.val = 0 ↔ Config.childOrder = .leftFirst) then
              { frameAt s p with left := s.dp.ret, cs := (frameAt t p).cs }
             else { frameAt s p with right := s.dp.ret, cs := (frameAt t p).cs })
        ∧ (s.ph = .tRet → busyFlag t = busyFlag s ∧ doneFlag t = doneFlag s ∧ errFlag t = errFlag s)

/-- The two stops of the model (log 11): T_PUSH outside the precondition R152 states, and T_RET of a parent whose CS is 2, for
which R154 defines no child. R31 rules these states out in every run. -/
def Obligations.CallAndReturnStops : Prop :=
  ∀ s : State,
    ((frameAt s s.sp).cs.val = 2 → exec .tPush s = .fault .childSelUndefined)
    ∧ ((frameAt s s.sp).cs.val ≤ 1 → s.sp.val = 6 → exec .tPush s = .fault .stackOverflow)
    ∧ (∀ p : Fin 7, s.sp.val = p.val + 1 → (frameAt s p).cs.val = 2 → exec .tRet s = .fault .childSelUndefined)

/-! The combiner -/

/-- R180: C_CAT, the order fixed: SELF, LEFT, RIGHT (R185). -/
def Obligations.CCatConcatenates : Prop :=
  encode .cCat = .phase 10
  ∧ ∀ s : State, ∃ t, exec .cCat s = .next t
    ∧ t = { s with ph := .cR1, dp := { s.dp with cb := t.dp.cb } }
    ∧ t.dp.cb.toList =
        (frameAt s s.sp).self.toList ++ (frameAt s s.sp).left.toList ++ (frameAt s s.sp).right.toList
    ∧ (s.ph = .cCat → busyFlag t = busyFlag s ∧ doneFlag t = doneFlag s ∧ errFlag t = errFlag s)

/-- R181: C_R1. -/
def Obligations.CR1CompressesBuffer : Prop :=
  encode .cR1 = .phase 11
  ∧ ∀ s : State, ∃ t, exec .cR1 s = .next t
    ∧ t = { s with ph := .cR2, dp := { s.dp with t32 := t.dp.t32 } }
    ∧ t.dp.t32 = Config.units.c256 s.dp.cb.toList ∧ s.dp.cb.toList.length = 96
    ∧ (s.ph = .cR1 → busyFlag t = busyFlag s ∧ doneFlag t = doneFlag s ∧ errFlag t = errFlag s)

/-- R182: C_R2. -/
def Obligations.CR2CompressesDigest : Prop :=
  encode .cR2 = .phase 12
  ∧ ∀ s : State, ∃ t, exec .cR2 s = .next t
    ∧ t = { s with ph := .tRet, dp := { s.dp with ret := t.dp.ret } }
    ∧ t.dp.ret = Config.units.c256 s.dp.t32.toList ∧ s.dp.t32.toList.length = 32
    ∧ (s.ph = .cR2 → busyFlag t = busyFlag s ∧ doneFlag t = doneFlag s ∧ errFlag t = errFlag s)

/-! The step -/

/-- 20_memory.md R62, R70 and 00_scope.md R11 in the model's terms (log 3): the step whose turn is a host write of c to CMD
runs the instruction c decodes to, with that turn taken off the queue; the step whose turn is the sequencer's (its own turn,
an empty queue, or a host that waits) runs the micro-operation PH encodes. In IDLE, DONE and ERR the sequencer has no step. -/
def Obligations.StepRunsDecodedInstruction : Prop :=
  (∀ (s : State) (c : Word) (rest : List Turn) (i : Instr), s.turns = .host (.write 0 4 c) :: rest →
      decode (.cmd c) = .instr i → i.wellFormed = true → step s = exec i { s with turns := rest })
  ∧ (∀ (s : State) (i : Instr), decode (.phase s.ph.code) = .instr i → i.wellFormed = true →
      (s.turns = [] → step s = exec i s)
      ∧ (∀ rest, s.turns = .seq :: rest → step s = exec i { s with turns := rest })
      ∧ (∀ rest, s.turns = .wait :: rest → step s = exec i s))
  ∧ (∀ s : State, s.ph = .idle ∨ s.ph = .done ∨ s.ph = .err →
      (s.turns = [] → step s = .next s)
      ∧ (∀ rest, s.turns = .seq :: rest → step s = .next { s with turns := rest })
      ∧ (∀ rest, s.turns = .wait :: rest → step s = .next { s with turns := rest, rdata := some (statusWord s) }))
  ∧ (∀ s : State, busyFlag s = true ↔ ∃ i, decode (.phase s.ph.code) = .instr i)

/-! The register space -/

/-- R62, R61: a host read of one aligned word returns what the register shows and leaves the block as it is. -/
def Obligations.HostReadReturnsRegister : Prop :=
  ∀ (s : State) (off : Nat) (rest : List Turn), s.turns = .host (.read off 4) :: rest → off % 4 = 0 → off ≤ 0xFFC →
    ∃ v : Word, step s = .next { s with turns := rest, rdata := some v }
      ∧ (off = 0x000 → v = 0)
      ∧ (off = 0x004 → v = statusWord s)
      ∧ (off = 0x008 → v.toNat = (errorCode s.errcode).toNat)
      ∧ (off = 0x00C → v = s.errinfo)
      ∧ (off = 0x010 → v.toNat = s.hcnt.toNat)
      ∧ (off = 0x014 → v = s.leafcnt)
      ∧ (off = 0x018 → v.toNat = s.ien.toNat)
      ∧ (∀ j : Fin 8, off = 0x020 + 4 * j.val → v = resWord s j)
      ∧ (∀ j : Fin 20, off = 0x040 + 4 * j.val → v = hdrWord s j)
      ∧ (off = 0x01C ∨ 0x090 ≤ off → v = 0)

/-- R62, R63, R68: the effect of a host write of one aligned word: CMD dispatches, IEN takes bits 1:0, every other offset
changes nothing; reserved offsets and CMD read zero. -/
def Obligations.HostWriteEffects : Prop :=
  ∀ (s : State) (off : Nat) (v : Word) (rest : List Turn), s.turns = .host (.write off 4 v) :: rest →
    off % 4 = 0 → off ≤ 0xFFC →
    (off = 0x000 → step s = dispatchWord v { s with turns := rest })
    ∧ (off = 0x018 → ∃ t, step s = .next t ∧ t = { s with turns := rest, ien := t.ien } ∧ t.ien.toNat = v.toNat % 4)
    ∧ (off ≠ 0x000 → off ≠ 0x018 → step s = .next { s with turns := rest })
    ∧ (off = 0x01C ∨ 0x090 ≤ off → memRead s off = 0) ∧ memRead s 0x000 = 0

/-- 20_memory.md section 4 (R64): an access that is not one aligned 32-bit word in 0x000..0xFFC is refused by the model. -/
def Obligations.MalformedAccessIsRefused : Prop :=
  ∀ (s : State) (a : Access) (rest : List Turn), s.turns = .host a :: rest →
    (∀ off len v, a = .read off len ∨ a = .write off len v → len ≠ 4 ∨ off % 4 ≠ 0 ∨ 0xFFC < off) →
    step s = .refused .notAWordAccess

/-- R32: the fields of STATUS. -/
def Obligations.StatusFields : Prop :=
  ∀ s : State,
    (statusWord s).getLsbD 0 = decide (1 ≤ s.ph.code.toNat ∧ s.ph.code.toNat ≤ 12)
    ∧ (statusWord s).getLsbD 1 = decide (s.ph = .done)
    ∧ (statusWord s).getLsbD 2 = decide (s.ph = .err)
    ∧ (statusWord s).getLsbD 3 = decide (s.hcnt.toNat = 80)
    ∧ (statusWord s).toNat / 2 ^ 4 % 2 ^ 4 = s.ph.code.toNat
    ∧ (statusWord s).toNat / 2 ^ 8 % 2 ^ 3 = s.sp.val
    ∧ (statusWord s).toNat / 2 ^ 11 % 2 ^ 5 = 0
    ∧ (statusWord s).toNat / 2 ^ 16 % 2 ^ 8 = s.lastop.toNat
    ∧ (statusWord s).toNat / 2 ^ 24 % 2 ^ 3 = s.rootlvl.toNat
    ∧ (statusWord s).toNat / 2 ^ 27 = 0
    ∧ (if s.ph = .idle then 1 else 0) + (if busyFlag s then 1 else 0) + (if doneFlag s then 1 else 0)
        + (if errFlag s then 1 else 0) = (1 : Nat)

/-- R38, R66: RESj and HDRWj pack four consecutive bytes little-endian; HDRW19 is the nonce; writes to
any of them are ignored. -/
def Obligations.BufferViewsAreLittleEndian : Prop :=
  ∀ s : State,
    (∀ j : Fin 8, (resWord s j).toNat =
      leNat (s.res[4 * j.val]'(by have := j.isLt; unfold DIGEST_LEN; omega))
        (s.res[4 * j.val + 1]'(by have := j.isLt; unfold DIGEST_LEN; omega))
        (s.res[4 * j.val + 2]'(by have := j.isLt; unfold DIGEST_LEN; omega))
        (s.res[4 * j.val + 3]'(by have := j.isLt; unfold DIGEST_LEN; omega)))
    ∧ (∀ j : Fin 20, (hdrWord s j).toNat =
      leNat (s.hdr[4 * j.val]'(by have := j.isLt; unfold HEADER_LEN; omega))
        (s.hdr[4 * j.val + 1]'(by have := j.isLt; unfold HEADER_LEN; omega))
        (s.hdr[4 * j.val + 2]'(by have := j.isLt; unfold HEADER_LEN; omega))
        (s.hdr[4 * j.val + 3]'(by have := j.isLt; unfold HEADER_LEN; omega)))
    ∧ hdrWord s 19 = headerNonce s.hdr
    ∧ (∀ (j : Fin 8) (v : Word), memWrite (regOffset (.res j)) v s = .next s)
    ∧ (∀ (j : Fin 20) (v : Word), memWrite (regOffset (.hdrw j)) v s = .next s)
    ∧ (∀ j : Fin 8, memRead s (regOffset (.res j)) = resWord s j)
    ∧ (∀ j : Fin 20, memRead s (regOffset (.hdrw j)) = hdrWord s j)

/-- 60_exceptions.md section 4 (R268): the interrupt line is a function of IEN and PH, and the two sources are never active
together. -/
def Obligations.InterruptLine : Prop :=
  ∀ s : State,
    (irqLine s = true ↔ (s.ien.toNat % 2 = 1 ∧ s.ph = .done) ∨ (s.ien.toNat / 2 = 1 ∧ s.ph = .err))
    ∧ ¬ (doneFlag s = true ∧ errFlag s = true)

/-! The whole machine -/

/-- 20_memory.md section 10 (R73): a step that starts and ends inside a run changes neither the header nor its counter, nor
what the run was started with. -/
def Obligations.HeaderFixedDuringRun : Prop :=
  ∀ s t : State, step s = .next t → busyFlag s = true → busyFlag t = true →
    t.hdr = s.hdr ∧ t.hcnt = s.hcnt ∧ t.rootlvl = s.rootlvl ∧ t.lastop = s.lastop

/-- 10_state.md R29: RES is written by the start sequence (to zero), by T_RET at SP = 0 (from RET) and by reset, and by
nothing else. -/
def Obligations.ResultWrittenInTwoPlaces : Prop :=
  ∀ s t : State, step s = .next t → t.res ≠ s.res →
    (s.ph = .tRet ∧ s.sp = 0 ∧ t.ph = .done ∧ t.res = s.dp.ret)
    ∨ ((s.ph = .idle ∨ s.ph = .done) ∧ t.ph = .lH0 ∧ t.res = zeroBytes _ ∧ ∃ c rest i level,
        s.turns = .host (.write 0 4 c) :: rest ∧ decode (.cmd c) = .instr i ∧ startLevel i = some level)
    ∨ (t.ph = .idle ∧ t.res = zeroBytes _ ∧ t.resets = s.resets + 1)

/-- R71: in DONE the sequencer has no step. DONE is entered only by T_RET at SP = 0, with RES final in the same step; while the block stays in DONE, RES,
LEAFCNT, ROOTLVL and LASTOP stay as they are. -/
def Obligations.DoneMeansResultFinal : Prop :=
  ∀ s t : State, step s = .next t → t.ph = .done → sequencerTurn t = .next t ∧
    (s.ph ≠ .done → s.ph = .tRet ∧ s.sp = 0 ∧ t.res = s.dp.ret)
    ∧ (s.ph = .done → t.res = s.res ∧ t.leafcnt = s.leafcnt ∧ t.rootlvl = s.rootlvl ∧ t.lastop = s.lastop)

/-- R276: LEAFCNT is incremented once per L_H0, cleared by a start and by reset, and otherwise kept. -/
def Obligations.LeafCounterMoves : Prop :=
  ∀ s t : State, step s = .next t → t.leafcnt ≠ s.leafcnt →
    (s.ph = .lH0 ∧ t.ph = .lCnt ∧ t.leafcnt = s.leafcnt + 1)
    ∨ (t.leafcnt = 0 ∧ t.ph = .lH0 ∧ (s.ph = .idle ∨ s.ph = .done))
    ∨ (t.leafcnt = 0 ∧ t.ph = .idle ∧ t.resets = s.resets + 1)

/-- The three invariants hold right after reset. -/
def Obligations.ResetMeetsInvariants : Prop :=
  ErrInv State.reset ∧ RunInv State.reset ∧ LeafInv State.reset

/-- R33: the error record describes an error exactly in phase ERR. Every step keeps it. -/
def Obligations.StepKeepsErrorRecord : Prop :=
  ∀ s t : State, ErrInv s → step s = .next t → ErrInv t

/-- R31: the invariants of a run. Every step keeps them. -/
def Obligations.StepKeepsRunInvariant : Prop :=
  ∀ s t : State, RunInv s → step s = .next t → RunInv t

/-- R34: LEAFCNT counts the leaf hashes of the run and never exceeds 127. Every step keeps it. -/
def Obligations.StepKeepsLeafCount : Prop :=
  ∀ s t : State, RunInv s → LeafInv s → step s = .next t → RunInv t ∧ LeafInv t

/-- 70_reset_and_hazards.md R314, 60_exceptions.md R260: a busy state of a run always has its micro-operation. In a state that
meets the run invariants no step faults, and a refusal comes only from a host access the interface cannot express. -/
def Obligations.RunsNeverFault : Prop :=
  ∀ s : State, RunInv s →
    (∃ t, step s = .next t)
    ∨ (step s = .refused .notAWordAccess ∧ ∃ a rest, s.turns = .host a :: rest ∧ a.wellFormed = false)

/-! Byte helpers and the functional definitions -/

/-- R234, R235: the little-endian helpers are what the spec writes and invert each other. -/
def Obligations.LittleEndianHelpers : Prop :=
  (∀ b : Bytes 4, (le32dec b).toNat = b[0].toNat + 256 * b[1].toNat + 65536 * b[2].toNat + 16777216 * b[3].toNat)
  ∧ (∀ (v : Word) (i : Fin 4), ((le32enc v)[i.val]).toNat = v.toNat / 2 ^ (8 * i.val) % 256)
  ∧ (∀ v : Word, le32dec (le32enc v) = v) ∧ (∀ b : Bytes 4, le32enc (le32dec b) = b)

/-- 41_tree_controller.md R174: a drift is reduced by the remainder on 65535 and added modulo 2^32, so a derived nonce is less
than 0xFFFF above its parent's, modulo 2^32; and the spec's identity for checking. -/
def Obligations.DriftBound : Prop :=
  (∀ (nonce : Word) (self : Digest),
    (leftNonce nonce self - nonce).toNat < 0xFFFF ∧ (rightNonce nonce self - nonce).toNat < 0xFFFF
    ∧ (leftNonce nonce self).toNat = (nonce.toNat + (driftA self).toNat % 65535) % 2 ^ 32
    ∧ (rightNonce nonce self).toNat = (nonce.toNat + (driftB self).toNat % 65535) % 2 ^ 32)
  ∧ (∀ d : Word, (reduceDrift d).toNat = (d.toNat / 2 ^ 16 + d.toNat % 2 ^ 16) % 65535)

/-- R171, R176: the call tree at level l evaluates exactly `2^l - 1` headers, and each has the root's bytes 0..75. -/
def Obligations.CallTreeShape : Prop :=
  ∀ (U : Units) (h : Header) (level : Nat), 1 ≤ level → level ≤ 7 →
    (treeHeaders U (level - 1) h).length = 2 ^ level - 1
    ∧ ∀ g ∈ treeHeaders U (level - 1) h, ∀ j : Fin 76,
        g[j.val]'(Nat.lt_trans j.isLt (by decide)) = h[j.val]'(Nat.lt_trans j.isLt (by decide))

/-- R141 and R312: the iteration count lies in 2..6, and the steps of a run at root level l are
`2 S + 4 * 2^(l-1) + 10 * (2^(l-1) - 1)` with S the sum of the iteration counts over the nodes, within the spec's bounds. -/
def Obligations.StepCountOfRun : Prop :=
  ∀ (U : Units) (h : Header) (level : Nat), 1 ≤ level → level ≤ 7 →
    (2 ≤ leafIters U h ∧ leafIters U h ≤ 6)
    ∧ treeIters U (level - 1) h = ((treeHeaders U (level - 1) h).map (leafIters U)).sum
    ∧ treeSteps U (level - 1) h =
        2 * treeIters U (level - 1) h + 4 * 2 ^ (level - 1) + 10 * (2 ^ (level - 1) - 1)
    ∧ 2 * (2 ^ level - 1) ≤ treeIters U (level - 1) h ∧ treeIters U (level - 1) h ≤ 6 * (2 ^ level - 1)

/-- 41_tree_controller.md R170, R171 and 43_host_commands.md R220: the terminal base case, the internal case with the header
copied and the nonces derived, and the entry point at level 7; no value outside 1..7. -/
def Obligations.TreeHashUnfolds : Prop :=
  ∀ (U : Units) (h : Header),
    treeHash U h 1 = some (leafHash U h)
    ∧ (∀ level, 2 ≤ level → level ≤ 7 →
        ∃ h1 h2 dl dr, treeHash U h1 (level - 1) = some dl ∧ treeHash U h2 (level - 1) = some dr
          ∧ (∀ j : Fin 76, h1[j.val]'(Nat.lt_trans j.isLt (by decide)) = h[j.val]'(Nat.lt_trans j.isLt (by decide))
              ∧ h2[j.val]'(Nat.lt_trans j.isLt (by decide)) = h[j.val]'(Nat.lt_trans j.isLt (by decide)))
          ∧ headerNonce h1 = leftNonce (headerNonce h) (leafHash U h)
          ∧ headerNonce h2 = rightNonce (headerNonce h) (leafHash U h)
          ∧ treeHash U h level =
              some (U.c256 (U.c256 ((leafHash U h).toList ++ dl.toList ++ dr.toList)).toList))
    ∧ (∀ level, level = 0 ∨ 7 < level → treeHash U h level = none)
    ∧ treeHash U h 7 = some (powHash U h)

/-! Refinement -/

/-- The invariant in the argument of R173: started in L_H0 at stack index d, the sequencer arrives in T_RET at the same index
with RET the tree hash of the node's header at level CURLVL, one step before the node's step count, having changed no frame
below d, no nonce of frame d, and nothing the host sees but PH and LEAFCNT. The premise that the queue is empty is the
model's choice (log 4). -/
def Obligations.SubtreeReturnsTreeHash : Prop :=
  ∀ (depth : Nat) (s : State), s.ph = .lH0 → s.turns = [] → s.rootlvl.toNat = s.sp.val + depth + 1 →
    ∃ t, runSteps (treeSteps Config.units depth (nodeHeader s) - 1) s = .next t
      ∧ t = { s with ph := .tRet, leafcnt := t.leafcnt, dp := t.dp }
      ∧ t.leafcnt = s.leafcnt + BitVec.ofNat 32 (2 ^ (depth + 1) - 1)
      ∧ t.dp.ret = treeHashAt Config.units depth (nodeHeader s)
      ∧ (frameAt t s.sp).nonce = (frameAt s s.sp).nonce
      ∧ ∀ d : Fin 7, d.val < s.sp.val → frameAt t d = frameAt s d

/-- R173: an accepted LEAF, TREE l or POW, after which the host issues no command other than NOP (it may read, write IEN, and
let the sequencer step when it will), delivers `treeHash(HDR, l)` in RES after the number of sequencer steps R312 gives, and
not before: until then BUSY is 1 and RES is zero. Nothing assumes a CHILD_ORDER, so it holds for both. -/
def Obligations.RunDeliversTreeHash : Prop :=
  ∀ (s : State) (i : Instr) (c : Word) (level : Nat) (ts : List Turn),
    startLevel i = some level → encode i = .cmd c → 1 ≤ level → level ≤ 7 →
    (s.ph = .idle ∨ s.ph = .done) → s.hcnt = 80 →
    s.turns = .host (.write 0 4 c) :: ts → (∀ t ∈ ts, quietTurn t = true) →
    ∃ t, runSteps (1 + ts.length) s = .next t
      ∧ t.turns = [] ∧ t.hdr = s.hdr ∧ t.hcnt = s.hcnt ∧ t.rootlvl.toNat = level ∧ t.lastop = startOpcode i
      ∧ t.errcode = s.errcode ∧ t.errinfo = s.errinfo
      ∧ (let steps := 2 * treeIters Config.units (level - 1) s.hdr + 4 * 2 ^ (level - 1)
            + 10 * (2 ^ (level - 1) - 1)
         (ts.count .seq < steps → busyFlag t = true ∧ t.res = zeroBytes _)
         ∧ (steps ≤ ts.count .seq →
              t.ph = .done ∧ t.sp = 0 ∧ some t.res = treeHash Config.units s.hdr level
              ∧ t.leafcnt.toNat = 2 ^ level - 1))

/-- The same run with a host that issues nothing more (the queue empty: the model then lets the sequencer go on, log 4): the
number of steps is exact, RES is the digest of the functional definition, and the state after it no longer changes. The
length of the wait after DONE is the model's idle step, not the spec's. -/
def Obligations.UndisturbedRunDelivers : Prop :=
  ∀ (s : State) (i : Instr) (c : Word) (level k : Nat),
    startLevel i = some level → encode i = .cmd c → 1 ≤ level → level ≤ 7 →
    (s.ph = .idle ∨ s.ph = .done) → s.hcnt = 80 → s.turns = [.host (.write 0 4 c)] →
    ∃ t, runSteps (1 + treeSteps Config.units (level - 1) s.hdr + k) s = .next t
      ∧ t.ph = .done ∧ t.sp = 0 ∧ t.rootlvl.toNat = level ∧ t.lastop = startOpcode i
      ∧ t.hdr = s.hdr ∧ t.hcnt = s.hcnt ∧ t.ien = s.ien ∧ t.rdata = s.rdata ∧ t.turns = []
      ∧ some t.res = treeHash Config.units s.hdr level ∧ t.leafcnt.toNat = 2 ^ level - 1
      ∧ (statusWord t).toNat = level * 2 ^ 24 + (startOpcode i).toNat * 2 ^ 16 + 0xDA

/-- 10_state.md sections 7 and 8 (R41, R31 (d)): the internal datapath and the frames are never observable, whatever they
hold. Two states outside a run that look the same to the host go on looking the same, over any number of steps and any turns. -/
def Obligations.DatapathIsUnobservable : Prop :=
  ∀ (k : Nat) (s t : State), busyFlag s = false → hostView s = hostView t →
    outcomeView (runSteps k s) = outcomeView (runSteps k t)

/-- 43_host_commands.md R221: a run delivers the same RES, LEAFCNT and STATUS whatever the block held before: two accepted
starts of one command on one header, in any two states, agree. -/
def Obligations.RunsAreDeterministic : Prop :=
  ∀ (s u : State) (i : Instr) (c : Word) (level : Nat),
    startLevel i = some level → encode i = .cmd c → 1 ≤ level → level ≤ 7 →
    (s.ph = .idle ∨ s.ph = .done) → (u.ph = .idle ∨ u.ph = .done) → s.hcnt = 80 → u.hcnt = 80 → s.hdr = u.hdr →
    s.turns = [.host (.write 0 4 c), .wait] → u.turns = [.host (.write 0 4 c), .wait] →
    ∃ k s' u', runSteps k s = .next s' ∧ runSteps k u = .next u' ∧ s'.ph = .done ∧ u'.ph = .done
      ∧ s'.turns = [] ∧ u'.turns = [] ∧ s'.rdata = u'.rdata ∧ s'.rdata = some (statusWord s')
      ∧ s'.res = u'.res ∧ s'.leafcnt = u'.leafcnt ∧ statusWord s' = statusWord u'

/-- R101: what each line of the assembler stands for, in words and offsets. -/
def Obligations.AssemblerWords : Prop :=
  assembleLine .nop = [.host (.write 0 4 0x00000000)]
  ∧ assembleLine .hclr = [.host (.write 0 4 0x00000001)]
  ∧ (∀ b : Byte, assembleLine (.hpush b) = [.host (.write 0 4 (0x00000002 ||| (b.setWidth 32 <<< 8)))])
  ∧ assembleLine .leaf = [.host (.write 0 4 0x00000010)]
  ∧ (∀ l : Byte, assembleLine (.tree l) = [.host (.write 0 4 (0x00000011 ||| (l.setWidth 32 <<< 8)))])
  ∧ assembleLine .pow = [.host (.write 0 4 0x00000012)]
  ∧ assembleLine .ack = [.host (.write 0 4 0x00000020)]
  ∧ assembleLine .srst = [.host (.write 0 4 0x0000007F)]
  ∧ (∀ w : Word, assembleLine (.word w) = [.host (.write 0 4 w)])
  ∧ assembleLine .wait = [.wait]
  ∧ (∀ r : Reg, assembleLine (.read r) = [.host (.read (regOffset r) 4)] ∧ regAt (regOffset r) = some r)
  ∧ (∀ v : Word, assembleLine (.ien v) = [.host (.write 0x018 4 v)])

/-- R102, R303 step 3: `hload` of eighty bytes, run in IDLE or DONE, loads them in offset order and sets HRDY; nothing else of
the block changes. -/
def Obligations.HloadLoadsHeader : Prop :=
  ∀ (s : State) (bs : List Byte) (rest : List Turn), (s.ph = .idle ∨ s.ph = .done) → bs.length = 80 →
    s.turns = assembleLine (.hload bs) ++ rest →
    ∃ t, runSteps 81 s = .next t
      ∧ t = { s with hdr := t.hdr, hcnt := 80, turns := rest }
      ∧ t.hdr.toList = bs ∧ hrdyFlag t = true
end

