-- ==== Sys2Proof/Laws/State.lean ====
section
/-! SUPPORT. One lemma per field per shared update of State, true by rfl, so that no later proof unfolds a record update. -/

namespace Sys2Proof.Machine

/-! `raiseError` -/

@[simp] theorem raiseError_ph (e : ErrCode) (c : Word) (s : State) : (raiseError e c s).ph = .err := rfl
@[simp] theorem raiseError_sp (e : ErrCode) (c : Word) (s : State) : (raiseError e c s).sp = s.sp := rfl
@[simp] theorem raiseError_rootlvl (e : ErrCode) (c : Word) (s : State) : (raiseError e c s).rootlvl = s.rootlvl := rfl
@[simp] theorem raiseError_lastop (e : ErrCode) (c : Word) (s : State) : (raiseError e c s).lastop = s.lastop := rfl
@[simp] theorem raiseError_hcnt (e : ErrCode) (c : Word) (s : State) : (raiseError e c s).hcnt = s.hcnt := rfl
@[simp] theorem raiseError_hdr (e : ErrCode) (c : Word) (s : State) : (raiseError e c s).hdr = s.hdr := rfl
@[simp] theorem raiseError_res (e : ErrCode) (c : Word) (s : State) : (raiseError e c s).res = s.res := rfl
@[simp] theorem raiseError_errcode (e : ErrCode) (c : Word) (s : State) : (raiseError e c s).errcode = e := rfl
@[simp] theorem raiseError_errinfo (e : ErrCode) (c : Word) (s : State) : (raiseError e c s).errinfo = c := rfl
@[simp] theorem raiseError_leafcnt (e : ErrCode) (c : Word) (s : State) : (raiseError e c s).leafcnt = s.leafcnt := rfl
@[simp] theorem raiseError_ien (e : ErrCode) (c : Word) (s : State) : (raiseError e c s).ien = s.ien := rfl
@[simp] theorem raiseError_dp (e : ErrCode) (c : Word) (s : State) : (raiseError e c s).dp = s.dp := rfl
@[simp] theorem raiseError_turns (e : ErrCode) (c : Word) (s : State) : (raiseError e c s).turns = s.turns := rfl
@[simp] theorem raiseError_rdata (e : ErrCode) (c : Word) (s : State) : (raiseError e c s).rdata = s.rdata := rfl
@[simp] theorem raiseError_resets (e : ErrCode) (c : Word) (s : State) : (raiseError e c s).resets = s.resets := rfl

/-! `returnFromError` -/

@[simp] theorem returnFromError_ph (s : State) : (returnFromError s).ph = .idle := rfl
@[simp] theorem returnFromError_sp (s : State) : (returnFromError s).sp = s.sp := rfl
@[simp] theorem returnFromError_rootlvl (s : State) : (returnFromError s).rootlvl = s.rootlvl := rfl
@[simp] theorem returnFromError_lastop (s : State) : (returnFromError s).lastop = s.lastop := rfl
@[simp] theorem returnFromError_hcnt (s : State) : (returnFromError s).hcnt = s.hcnt := rfl
@[simp] theorem returnFromError_hdr (s : State) : (returnFromError s).hdr = s.hdr := rfl
@[simp] theorem returnFromError_res (s : State) : (returnFromError s).res = s.res := rfl
@[simp] theorem returnFromError_errcode (s : State) : (returnFromError s).errcode = .eNone := rfl
@[simp] theorem returnFromError_errinfo (s : State) : (returnFromError s).errinfo = 0 := rfl
@[simp] theorem returnFromError_leafcnt (s : State) : (returnFromError s).leafcnt = s.leafcnt := rfl
@[simp] theorem returnFromError_ien (s : State) : (returnFromError s).ien = s.ien := rfl
@[simp] theorem returnFromError_dp (s : State) : (returnFromError s).dp = s.dp := rfl
@[simp] theorem returnFromError_turns (s : State) : (returnFromError s).turns = s.turns := rfl
@[simp] theorem returnFromError_rdata (s : State) : (returnFromError s).rdata = s.rdata := rfl
@[simp] theorem returnFromError_resets (s : State) : (returnFromError s).resets = s.resets := rfl

/-! `resetBlock` -/

@[simp] theorem resetBlock_ph (s : State) : (resetBlock s).ph = .idle := rfl
@[simp] theorem resetBlock_sp (s : State) : (resetBlock s).sp = 0 := rfl
@[simp] theorem resetBlock_rootlvl (s : State) : (resetBlock s).rootlvl = 0 := rfl
@[simp] theorem resetBlock_lastop (s : State) : (resetBlock s).lastop = 0 := rfl
@[simp] theorem resetBlock_hcnt (s : State) : (resetBlock s).hcnt = 0 := rfl
@[simp] theorem resetBlock_hdr (s : State) : (resetBlock s).hdr = zeroBytes _ := rfl
@[simp] theorem resetBlock_res (s : State) : (resetBlock s).res = zeroBytes _ := rfl
@[simp] theorem resetBlock_errcode (s : State) : (resetBlock s).errcode = .eNone := rfl
@[simp] theorem resetBlock_errinfo (s : State) : (resetBlock s).errinfo = 0 := rfl
@[simp] theorem resetBlock_leafcnt (s : State) : (resetBlock s).leafcnt = 0 := rfl
@[simp] theorem resetBlock_ien (s : State) : (resetBlock s).ien = 0 := rfl
@[simp] theorem resetBlock_dp (s : State) : (resetBlock s).dp = Config.unspecified s.resets := rfl
@[simp] theorem resetBlock_turns (s : State) : (resetBlock s).turns = s.turns := rfl
@[simp] theorem resetBlock_rdata (s : State) : (resetBlock s).rdata = s.rdata := rfl
@[simp] theorem resetBlock_resets (s : State) : (resetBlock s).resets = s.resets + 1 := rfl

/-! `putFrame` -/

@[simp] theorem putFrame_ph (s : State) (d : Fin NFRAMES) (f : Frame) : (putFrame s d f).ph = s.ph := rfl
@[simp] theorem putFrame_sp (s : State) (d : Fin NFRAMES) (f : Frame) : (putFrame s d f).sp = s.sp := rfl
@[simp] theorem putFrame_rootlvl (s : State) (d : Fin NFRAMES) (f : Frame) : (putFrame s d f).rootlvl = s.rootlvl := rfl
@[simp] theorem putFrame_lastop (s : State) (d : Fin NFRAMES) (f : Frame) : (putFrame s d f).lastop = s.lastop := rfl
@[simp] theorem putFrame_hcnt (s : State) (d : Fin NFRAMES) (f : Frame) : (putFrame s d f).hcnt = s.hcnt := rfl
@[simp] theorem putFrame_hdr (s : State) (d : Fin NFRAMES) (f : Frame) : (putFrame s d f).hdr = s.hdr := rfl
@[simp] theorem putFrame_res (s : State) (d : Fin NFRAMES) (f : Frame) : (putFrame s d f).res = s.res := rfl
@[simp] theorem putFrame_errcode (s : State) (d : Fin NFRAMES) (f : Frame) : (putFrame s d f).errcode = s.errcode := rfl
@[simp] theorem putFrame_errinfo (s : State) (d : Fin NFRAMES) (f : Frame) : (putFrame s d f).errinfo = s.errinfo := rfl
@[simp] theorem putFrame_leafcnt (s : State) (d : Fin NFRAMES) (f : Frame) : (putFrame s d f).leafcnt = s.leafcnt := rfl
@[simp] theorem putFrame_ien (s : State) (d : Fin NFRAMES) (f : Frame) : (putFrame s d f).ien = s.ien := rfl
@[simp] theorem putFrame_turns (s : State) (d : Fin NFRAMES) (f : Frame) : (putFrame s d f).turns = s.turns := rfl
@[simp] theorem putFrame_rdata (s : State) (d : Fin NFRAMES) (f : Frame) : (putFrame s d f).rdata = s.rdata := rfl
@[simp] theorem putFrame_resets (s : State) (d : Fin NFRAMES) (f : Frame) : (putFrame s d f).resets = s.resets := rfl
@[simp] theorem putFrame_dp_w (s : State) (d : Fin NFRAMES) (f : Frame) : (putFrame s d f).dp.w = s.dp.w := rfl
@[simp] theorem putFrame_dp_n (s : State) (d : Fin NFRAMES) (f : Frame) : (putFrame s d f).dp.n = s.dp.n := rfl
@[simp] theorem putFrame_dp_i (s : State) (d : Fin NFRAMES) (f : Frame) : (putFrame s d f).dp.i = s.dp.i := rfl
@[simp] theorem putFrame_dp_k (s : State) (d : Fin NFRAMES) (f : Frame) : (putFrame s d f).dp.k = s.dp.k := rfl
@[simp] theorem putFrame_dp_ld (s : State) (d : Fin NFRAMES) (f : Frame) : (putFrame s d f).dp.ld = s.dp.ld := rfl
@[simp] theorem putFrame_dp_ret (s : State) (d : Fin NFRAMES) (f : Frame) : (putFrame s d f).dp.ret = s.dp.ret := rfl
@[simp] theorem putFrame_dp_cb (s : State) (d : Fin NFRAMES) (f : Frame) : (putFrame s d f).dp.cb = s.dp.cb := rfl
@[simp] theorem putFrame_dp_t32 (s : State) (d : Fin NFRAMES) (f : Frame) : (putFrame s d f).dp.t32 = s.dp.t32 := rfl
@[simp] theorem putFrame_dp_fr (s : State) (d : Fin NFRAMES) (f : Frame) : (putFrame s d f).dp.fr = s.dp.fr.set d.val f d.isLt := rfl

/-! `startRun` -/

@[simp] theorem startRun_ph (l : Nat) (c : Word) (s : State) : (startRun l c s).ph = .lH0 := rfl
@[simp] theorem startRun_sp (l : Nat) (c : Word) (s : State) : (startRun l c s).sp = 0 := rfl
@[simp] theorem startRun_rootlvl (l : Nat) (c : Word) (s : State) : (startRun l c s).rootlvl = BitVec.ofNat 3 l := rfl
@[simp] theorem startRun_lastop (l : Nat) (c : Word) (s : State) : (startRun l c s).lastop = opcField c := rfl
@[simp] theorem startRun_hcnt (l : Nat) (c : Word) (s : State) : (startRun l c s).hcnt = s.hcnt := rfl
@[simp] theorem startRun_hdr (l : Nat) (c : Word) (s : State) : (startRun l c s).hdr = s.hdr := rfl
@[simp] theorem startRun_res (l : Nat) (c : Word) (s : State) : (startRun l c s).res = zeroBytes _ := rfl
@[simp] theorem startRun_errcode (l : Nat) (c : Word) (s : State) : (startRun l c s).errcode = s.errcode := rfl
@[simp] theorem startRun_errinfo (l : Nat) (c : Word) (s : State) : (startRun l c s).errinfo = s.errinfo := rfl
@[simp] theorem startRun_leafcnt (l : Nat) (c : Word) (s : State) : (startRun l c s).leafcnt = 0 := rfl
@[simp] theorem startRun_ien (l : Nat) (c : Word) (s : State) : (startRun l c s).ien = s.ien := rfl
@[simp] theorem startRun_turns (l : Nat) (c : Word) (s : State) : (startRun l c s).turns = s.turns := rfl
@[simp] theorem startRun_rdata (l : Nat) (c : Word) (s : State) : (startRun l c s).rdata = s.rdata := rfl
@[simp] theorem startRun_resets (l : Nat) (c : Word) (s : State) : (startRun l c s).resets = s.resets := rfl
@[simp] theorem startRun_dp_w (l : Nat) (c : Word) (s : State) : (startRun l c s).dp.w = s.dp.w := rfl
@[simp] theorem startRun_dp_n (l : Nat) (c : Word) (s : State) : (startRun l c s).dp.n = s.dp.n := rfl
@[simp] theorem startRun_dp_i (l : Nat) (c : Word) (s : State) : (startRun l c s).dp.i = s.dp.i := rfl
@[simp] theorem startRun_dp_k (l : Nat) (c : Word) (s : State) : (startRun l c s).dp.k = s.dp.k := rfl
@[simp] theorem startRun_dp_ld (l : Nat) (c : Word) (s : State) : (startRun l c s).dp.ld = s.dp.ld := rfl
@[simp] theorem startRun_dp_ret (l : Nat) (c : Word) (s : State) : (startRun l c s).dp.ret = s.dp.ret := rfl
@[simp] theorem startRun_dp_cb (l : Nat) (c : Word) (s : State) : (startRun l c s).dp.cb = s.dp.cb := rfl
@[simp] theorem startRun_dp_t32 (l : Nat) (c : Word) (s : State) : (startRun l c s).dp.t32 = s.dp.t32 := rfl
@[simp] theorem startRun_dp_fr (l : Nat) (c : Word) (s : State) : (startRun l c s).dp.fr = s.dp.fr.set 0 { frameAt s 0 with nonce := headerNonce s.hdr } (by decide) := rfl

/-! `pushByte` -/

@[simp] theorem pushByte_ph (b : Byte) (s : State) : (pushByte b s).ph = s.ph := rfl
@[simp] theorem pushByte_sp (b : Byte) (s : State) : (pushByte b s).sp = s.sp := rfl
@[simp] theorem pushByte_rootlvl (b : Byte) (s : State) : (pushByte b s).rootlvl = s.rootlvl := rfl
@[simp] theorem pushByte_lastop (b : Byte) (s : State) : (pushByte b s).lastop = s.lastop := rfl
@[simp] theorem pushByte_hcnt (b : Byte) (s : State) : (pushByte b s).hcnt = BitVec.ofNat 8 (min (s.hcnt.toNat + 1) 255) := rfl
@[simp] theorem pushByte_hdr (b : Byte) (s : State) : (pushByte b s).hdr = if h : s.hcnt.toNat < HEADER_LEN then s.hdr.set s.hcnt.toNat b h else s.hdr := rfl
@[simp] theorem pushByte_res (b : Byte) (s : State) : (pushByte b s).res = s.res := rfl
@[simp] theorem pushByte_errcode (b : Byte) (s : State) : (pushByte b s).errcode = s.errcode := rfl
@[simp] theorem pushByte_errinfo (b : Byte) (s : State) : (pushByte b s).errinfo = s.errinfo := rfl
@[simp] theorem pushByte_leafcnt (b : Byte) (s : State) : (pushByte b s).leafcnt = s.leafcnt := rfl
@[simp] theorem pushByte_ien (b : Byte) (s : State) : (pushByte b s).ien = s.ien := rfl
@[simp] theorem pushByte_dp (b : Byte) (s : State) : (pushByte b s).dp = s.dp := rfl
@[simp] theorem pushByte_turns (b : Byte) (s : State) : (pushByte b s).turns = s.turns := rfl
@[simp] theorem pushByte_rdata (b : Byte) (s : State) : (pushByte b s).rdata = s.rdata := rfl
@[simp] theorem pushByte_resets (b : Byte) (s : State) : (pushByte b s).resets = s.resets := rfl

/-! `clearCounter` -/

@[simp] theorem clearCounter_ph (s : State) : (clearCounter s).ph = s.ph := rfl
@[simp] theorem clearCounter_sp (s : State) : (clearCounter s).sp = s.sp := rfl
@[simp] theorem clearCounter_rootlvl (s : State) : (clearCounter s).rootlvl = s.rootlvl := rfl
@[simp] theorem clearCounter_lastop (s : State) : (clearCounter s).lastop = s.lastop := rfl
@[simp] theorem clearCounter_hcnt (s : State) : (clearCounter s).hcnt = 0 := rfl
@[simp] theorem clearCounter_hdr (s : State) : (clearCounter s).hdr = s.hdr := rfl
@[simp] theorem clearCounter_res (s : State) : (clearCounter s).res = s.res := rfl
@[simp] theorem clearCounter_errcode (s : State) : (clearCounter s).errcode = s.errcode := rfl
@[simp] theorem clearCounter_errinfo (s : State) : (clearCounter s).errinfo = s.errinfo := rfl
@[simp] theorem clearCounter_leafcnt (s : State) : (clearCounter s).leafcnt = s.leafcnt := rfl
@[simp] theorem clearCounter_ien (s : State) : (clearCounter s).ien = s.ien := rfl
@[simp] theorem clearCounter_dp (s : State) : (clearCounter s).dp = s.dp := rfl
@[simp] theorem clearCounter_turns (s : State) : (clearCounter s).turns = s.turns := rfl
@[simp] theorem clearCounter_rdata (s : State) : (clearCounter s).rdata = s.rdata := rfl
@[simp] theorem clearCounter_resets (s : State) : (clearCounter s).resets = s.resets := rfl

/-! `callPrimitive` -/

@[simp] theorem callPrimitive_ph (U : Units) (k : Fin PRIMITIVE_COUNT) (m : List Byte) (s : State) : (callPrimitive U k m s).ph = s.ph := rfl
@[simp] theorem callPrimitive_sp (U : Units) (k : Fin PRIMITIVE_COUNT) (m : List Byte) (s : State) : (callPrimitive U k m s).sp = s.sp := rfl
@[simp] theorem callPrimitive_rootlvl (U : Units) (k : Fin PRIMITIVE_COUNT) (m : List Byte) (s : State) : (callPrimitive U k m s).rootlvl = s.rootlvl := rfl
@[simp] theorem callPrimitive_lastop (U : Units) (k : Fin PRIMITIVE_COUNT) (m : List Byte) (s : State) : (callPrimitive U k m s).lastop = s.lastop := rfl
@[simp] theorem callPrimitive_hcnt (U : Units) (k : Fin PRIMITIVE_COUNT) (m : List Byte) (s : State) : (callPrimitive U k m s).hcnt = s.hcnt := rfl
@[simp] theorem callPrimitive_hdr (U : Units) (k : Fin PRIMITIVE_COUNT) (m : List Byte) (s : State) : (callPrimitive U k m s).hdr = s.hdr := rfl
@[simp] theorem callPrimitive_res (U : Units) (k : Fin PRIMITIVE_COUNT) (m : List Byte) (s : State) : (callPrimitive U k m s).res = s.res := rfl
@[simp] theorem callPrimitive_errcode (U : Units) (k : Fin PRIMITIVE_COUNT) (m : List Byte) (s : State) : (callPrimitive U k m s).errcode = s.errcode := rfl
@[simp] theorem callPrimitive_errinfo (U : Units) (k : Fin PRIMITIVE_COUNT) (m : List Byte) (s : State) : (callPrimitive U k m s).errinfo = s.errinfo := rfl
@[simp] theorem callPrimitive_leafcnt (U : Units) (k : Fin PRIMITIVE_COUNT) (m : List Byte) (s : State) : (callPrimitive U k m s).leafcnt = s.leafcnt := rfl
@[simp] theorem callPrimitive_ien (U : Units) (k : Fin PRIMITIVE_COUNT) (m : List Byte) (s : State) : (callPrimitive U k m s).ien = s.ien := rfl
@[simp] theorem callPrimitive_turns (U : Units) (k : Fin PRIMITIVE_COUNT) (m : List Byte) (s : State) : (callPrimitive U k m s).turns = s.turns := rfl
@[simp] theorem callPrimitive_rdata (U : Units) (k : Fin PRIMITIVE_COUNT) (m : List Byte) (s : State) : (callPrimitive U k m s).rdata = s.rdata := rfl
@[simp] theorem callPrimitive_resets (U : Units) (k : Fin PRIMITIVE_COUNT) (m : List Byte) (s : State) : (callPrimitive U k m s).resets = s.resets := rfl
@[simp] theorem callPrimitive_dp_w (U : Units) (k : Fin PRIMITIVE_COUNT) (m : List Byte) (s : State) : (callPrimitive U k m s).dp.w = U.h k m := rfl
@[simp] theorem callPrimitive_dp_n (U : Units) (k : Fin PRIMITIVE_COUNT) (m : List Byte) (s : State) : (callPrimitive U k m s).dp.n = s.dp.n := rfl
@[simp] theorem callPrimitive_dp_i (U : Units) (k : Fin PRIMITIVE_COUNT) (m : List Byte) (s : State) : (callPrimitive U k m s).dp.i = s.dp.i := rfl
@[simp] theorem callPrimitive_dp_k (U : Units) (k : Fin PRIMITIVE_COUNT) (m : List Byte) (s : State) : (callPrimitive U k m s).dp.k = s.dp.k := rfl
@[simp] theorem callPrimitive_dp_ld (U : Units) (k : Fin PRIMITIVE_COUNT) (m : List Byte) (s : State) : (callPrimitive U k m s).dp.ld = s.dp.ld := rfl
@[simp] theorem callPrimitive_dp_ret (U : Units) (k : Fin PRIMITIVE_COUNT) (m : List Byte) (s : State) : (callPrimitive U k m s).dp.ret = s.dp.ret := rfl
@[simp] theorem callPrimitive_dp_cb (U : Units) (k : Fin PRIMITIVE_COUNT) (m : List Byte) (s : State) : (callPrimitive U k m s).dp.cb = s.dp.cb := rfl
@[simp] theorem callPrimitive_dp_t32 (U : Units) (k : Fin PRIMITIVE_COUNT) (m : List Byte) (s : State) : (callPrimitive U k m s).dp.t32 = s.dp.t32 := rfl
@[simp] theorem callPrimitive_dp_fr (U : Units) (k : Fin PRIMITIVE_COUNT) (m : List Byte) (s : State) : (callPrimitive U k m s).dp.fr = s.dp.fr := rfl

/-! Frames -/

@[simp] theorem frameAt_putFrame_self (s : State) (d : Fin NFRAMES) (f : Frame) : frameAt (putFrame s d f) d = f := by
  simp [frameAt, putFrame]

theorem frameAt_putFrame_ne (s : State) (d e : Fin NFRAMES) (f : Frame) (h : e ≠ d) :
    frameAt (putFrame s d f) e = frameAt s e := by
  have : d.val ≠ e.val := fun hv => h (Fin.ext hv.symm)
  simp [frameAt, putFrame, this]

theorem frameAt_putFrame (s : State) (d e : Fin NFRAMES) (f : Frame) :
    frameAt (putFrame s d f) e = if e = d then f else frameAt s e := by
  by_cases h : e = d
  · subst h; simp
  · simp [h, frameAt_putFrame_ne s d e f h]

@[simp] theorem frameAt_raiseError (e : ErrCode) (c : Word) (s : State) (d : Fin NFRAMES) :
    frameAt (raiseError e c s) d = frameAt s d := rfl

@[simp] theorem frameAt_callPrimitive (U : Units) (k : Fin PRIMITIVE_COUNT) (m : List Byte) (s : State) (d : Fin NFRAMES) :
    frameAt (callPrimitive U k m s) d = frameAt s d := rfl

/-- Which frames a start writes: the nonce of FR[0] (R209). -/
theorem frameAt_startRun (l : Nat) (c : Word) (s : State) (d : Fin NFRAMES) :
    frameAt (startRun l c s) d =
      if d = 0 then { frameAt s 0 with nonce := headerNonce s.hdr } else frameAt s d :=
  frameAt_putFrame s 0 d _

/-- The mux's call leaves the node's header alone. -/
@[simp] theorem nodeHeader_callPrimitive (U : Units) (k : Fin PRIMITIVE_COUNT) (m : List Byte) (s : State) :
    nodeHeader (callPrimitive U k m s) = nodeHeader s := rfl

end Sys2Proof.Machine
end

