-- ==== Sys2Proof/Laws/Ops.lean ====
section
/-! SUPPORT. For each shared operation, what it can do, said once: a proof cites these cases and does not unfold it. -/

namespace Sys2Proof.Machine

/-- The four groups of phases (R32: exactly one of IDLE, BUSY, DONE, ERR holds). -/
theorem phase_cases (s : State) :
    (s.ph = .idle ∧ busyFlag s = false) ∨ busyFlag s = true ∨ (s.ph = .done ∧ busyFlag s = false)
      ∨ (s.ph = .err ∧ busyFlag s = false) := by
  unfold busyFlag
  cases s.ph <;> decide

theorem busyFlag_of_ph {s t : State} (h : s.ph = t.ph) : busyFlag s = busyFlag t := by
  simp [busyFlag, h]

/-- `gateCommand` in ERR drops the command (R208 line 3). -/
theorem gateCommand_err {c : Word} {own : State → State} {s : State} (h : s.ph = .err) : gateCommand c own s = s := by
  simp [gateCommand, h]

/-- `gateCommand` while busy raises E_BUSY (R208 line 4). -/
theorem gateCommand_busy {c : Word} {own : State → State} {s : State} (h : busyFlag s = true) :
    gateCommand c own s = raiseError .eBusy c s := by
  have h' : s.ph ≠ .err := by
    intro he
    simp [busyFlag, he, isBusyPhase, Phase.code] at h
  simp [gateCommand, h, h']

/-- `gateCommand` in IDLE and DONE performs the command (R208 line 6). -/
theorem gateCommand_ready {c : Word} {own : State → State} {s : State} (h : s.ph = .idle ∨ s.ph = .done) :
    gateCommand c own s = own s := by
  rcases h with h | h <;> simp [gateCommand, busyFlag, h, isBusyPhase, Phase.code]

/-- Everything `gateCommand` can do. -/
theorem gateCommand_cases (c : Word) (own : State → State) (s : State) :
    (s.ph = .err ∧ gateCommand c own s = s)
    ∨ (busyFlag s = true ∧ gateCommand c own s = raiseError .eBusy c s)
    ∨ ((s.ph = .idle ∨ s.ph = .done) ∧ gateCommand c own s = own s) := by
  rcases phase_cases s with ⟨h, -⟩ | h | ⟨h, -⟩ | ⟨h, -⟩
  · exact .inr (.inr ⟨.inl h, gateCommand_ready (.inl h)⟩)
  · exact .inr (.inl ⟨h, gateCommand_busy h⟩)
  · exact .inr (.inr ⟨.inr h, gateCommand_ready (.inr h)⟩)
  · exact .inl ⟨h, gateCommand_err h⟩

/-- Everything the start sequence can do (R209). -/
theorem startSequence_cases (level : Nat) (c : Word) (s : State) :
    (s.hcnt.toNat ≠ 80 ∧ startSequence level c s = raiseError .eLen c s)
    ∨ (s.hcnt.toNat = 80 ∧ (level < 1 ∨ 7 < level) ∧ startSequence level c s = raiseError .eLevel c s)
    ∨ (s.hcnt.toNat = 80 ∧ 1 ≤ level ∧ level ≤ 7 ∧ startSequence level c s = startRun level c s) := by
  unfold startSequence HEADER_LEN MIN_LEVEL MAX_LEVEL
  by_cases h : s.hcnt.toNat = 80
  · by_cases hl : level < 1 ∨ 7 < level
    · exact .inr (.inl ⟨h, hl, by rw [if_neg (by omega), if_pos hl]⟩)
    · exact .inr (.inr ⟨h, by omega, by omega, by rw [if_neg (by omega), if_neg hl]⟩)
  · exact .inl ⟨h, if_pos h⟩

/-- Everything ACK can do (R206, R208). -/
theorem acknowledge_cases (c : Word) (s : State) :
    (s.ph = .err ∧ acknowledge c s = returnFromError s)
    ∨ (busyFlag s = true ∧ acknowledge c s = raiseError .eBusy c s)
    ∨ (s.ph = .done ∧ acknowledge c s = { s with ph := .idle })
    ∨ (s.ph = .idle ∧ acknowledge c s = s) := by
  unfold acknowledge
  rcases phase_cases s with ⟨h, hb⟩ | h | ⟨h, hb⟩ | ⟨h, hb⟩
  · exact .inr (.inr (.inr ⟨h, by simp [h, hb]⟩))
  · have h' : s.ph ≠ .err := by
      intro he
      simp [busyFlag, he, isBusyPhase, Phase.code] at h
    exact .inr (.inl ⟨h, by simp [h, h']⟩)
  · exact .inr (.inr (.inl ⟨h, by simp [h, hb]⟩))
  · exact .inl ⟨h, by simp [h]⟩

/-- An ILLEGAL word (R93): dropped, E_BUSY or E_CMD. -/
theorem illegalCommand_cases (c : Word) (s : State) :
    (s.ph = .err ∧ illegalCommand c s = s)
    ∨ (busyFlag s = true ∧ illegalCommand c s = raiseError .eBusy c s)
    ∨ ((s.ph = .idle ∨ s.ph = .done) ∧ illegalCommand c s = raiseError .eCmd c s) :=
  gateCommand_cases c (raiseError .eCmd c) s

/-- `child_sel` names a child exactly for CS 0 and 1 (R154). -/
theorem childSel_cases (o : ChildOrder) (cs : Fin 3) :
    (cs = 0 ∧ childSel o cs = some (firstChild o)) ∨ (cs = 1 ∧ childSel o cs = some (secondChild o))
      ∨ (cs = 2 ∧ childSel o cs = none) := by
  revert cs
  cases o <;> decide

/-- Everything T_PUSH can do (R152). -/
theorem treePush_cases (o : ChildOrder) (s : State) :
    (∃ (c : Child) (h : s.sp.val + 1 < NFRAMES), childSel o (frameAt s s.sp).cs = some c
        ∧ treePush o s = .next (enterChild c ⟨s.sp.val + 1, h⟩ s))
    ∨ (childSel o (frameAt s s.sp).cs = none ∧ treePush o s = .fault .childSelUndefined)
    ∨ (s.sp.val = 6 ∧ treePush o s = .fault .stackOverflow) := by
  unfold treePush
  cases hc : childSel o (frameAt s s.sp).cs with
  | none => exact .inr (.inl ⟨rfl, rfl⟩)
  | some c =>
    by_cases h : s.sp.val + 1 < NFRAMES
    · exact .inl ⟨c, h, rfl, by simp [h]⟩
    · exact .inr (.inr ⟨by have := s.sp.isLt; unfold NFRAMES at *; omega, by simp [h]⟩)

/-- Everything T_RET can do (R153). -/
theorem treeReturn_cases (o : ChildOrder) (s : State) :
    (s.sp.val = 0 ∧ treeReturn o s = .next (finishRun s))
    ∨ (s.sp.val ≠ 0 ∧ ∃ c, childSel o (frameAt s (parentOf s.sp)).cs = some c
        ∧ treeReturn o s = .next (leaveChild c (parentOf s.sp) s))
    ∨ (s.sp.val ≠ 0 ∧ childSel o (frameAt s (parentOf s.sp)).cs = none
        ∧ treeReturn o s = .fault .childSelUndefined) := by
  unfold treeReturn
  by_cases h : s.sp.val = 0
  · exact .inl ⟨h, by simp [h]⟩
  · cases hc : childSel o (frameAt s (parentOf s.sp)).cs with
    | none => exact .inr (.inr ⟨h, rfl, by simp [h]⟩)
    | some c => exact .inr (.inl ⟨h, c, rfl, by simp [h]⟩)

/-- T_DISP's two branches (R150). -/
theorem treeDispatch_cases (s : State) :
    (s.rootlvl.toNat = s.sp.val + 1 ∧ treeDispatch s = { s with dp.ret := s.dp.ld, ph := .tRet })
    ∨ (s.rootlvl.toNat ≠ s.sp.val + 1
        ∧ treeDispatch s = { putFrame s s.sp { frameAt s s.sp with self := s.dp.ld } with ph := .tDrift }) := by
  unfold treeDispatch isTerminal MIN_LEVEL
  by_cases h : s.rootlvl.toNat = s.sp.val + 1
  · exact .inl ⟨h, by simp [h]⟩
  · exact .inr ⟨h, by simp [h]⟩

/-- L_SEL's two branches (R122). -/
theorem leafSelect_cases (s : State) :
    (s.dp.i.toNat < s.dp.n.toNat
        ∧ leafSelect s = { s with dp.k := selIndex s.dp.w s.dp.i.toNat, ph := .lRnd })
    ∨ (s.dp.n.toNat ≤ s.dp.i.toNat ∧ leafSelect s = { s with ph := .lOut }) := by
  unfold leafSelect
  by_cases h : s.dp.i.toNat < s.dp.n.toNat
  · exact .inl ⟨h, by simp [h]⟩
  · exact .inr ⟨by omega, by simp [h]⟩

/-- The iteration count lies in 2..6 (R141). -/
theorem iterCount_bounds (w : WorkDigest) : 2 ≤ iterCount w ∧ iterCount w ≤ 6 := by
  unfold iterCount MIN_ITER MAX_ITER
  omega

/-- Byte j of a slice (R9). -/
@[simp] theorem slice_getElem {n : Nat} (b : Bytes n) (off len : Nat) (h : off + len ≤ n) (j : Nat) (hj : j < len) :
    (slice b off len h)[j] = b[off + j]'(by omega) := by
  simp [slice]

end Sys2Proof.Machine
end

