-- ==== Sys2Proof/Laws/PerInstr.lean ====
section
/-! SUPPORT. Statements made per instruction: the word the encoder gives an operation satisfies `c and mask = match` of its own
row of spec/opcode_table.json (spec/30_encoding.md R91, R96, R97), and the operation is well formed. -/

namespace Sys2Proof.Laws.TableRow

/-- The operation's word matches its own table row. -/
def Statement (i : Instr) : Prop := i.wellFormed = true ∧ rowMatches (encode i) (tableRow i) = true

theorem nop : Statement .nop := ⟨by decide, by decide⟩
theorem hclr : Statement .hclr := ⟨by decide, by decide⟩
theorem hpush (b : Byte) : Statement (.hpush b) := by
  refine ⟨rfl, ?_⟩
  revert b
  decide
theorem leaf : Statement .leaf := ⟨by decide, by decide⟩
theorem tree (level : Byte) : Statement (.tree level) := by
  refine ⟨rfl, ?_⟩
  revert level
  decide
theorem pow : Statement .pow := ⟨by decide, by decide⟩
theorem ack : Statement .ack := ⟨by decide, by decide⟩
theorem srst : Statement .srst := ⟨by decide, by decide⟩
theorem lH0 : Statement .lH0 := ⟨by decide, by decide⟩
theorem lCnt : Statement .lCnt := ⟨by decide, by decide⟩
theorem lSel : Statement .lSel := ⟨by decide, by decide⟩
theorem lRnd : Statement .lRnd := ⟨by decide, by decide⟩
theorem lOut : Statement .lOut := ⟨by decide, by decide⟩
theorem tDisp : Statement .tDisp := ⟨by decide, by decide⟩
theorem tDrift : Statement .tDrift := ⟨by decide, by decide⟩
theorem tPush : Statement .tPush := ⟨by decide, by decide⟩
theorem tRet : Statement .tRet := ⟨by decide, by decide⟩
theorem cCat : Statement .cCat := ⟨by decide, by decide⟩
theorem cR1 : Statement .cR1 := ⟨by decide, by decide⟩
theorem cR2 : Statement .cR2 := ⟨by decide, by decide⟩
theorem h0 : Statement .h0 := ⟨by decide, by decide⟩
theorem h1 : Statement .h1 := ⟨by decide, by decide⟩
theorem h2 : Statement .h2 := ⟨by decide, by decide⟩
theorem h3 : Statement .h3 := ⟨by decide, by decide⟩
theorem h4 : Statement .h4 := ⟨by decide, by decide⟩
theorem h5 : Statement .h5 := ⟨by decide, by decide⟩
theorem h6 : Statement .h6 := ⟨by decide, by decide⟩
theorem h7 : Statement .h7 := ⟨by decide, by decide⟩
theorem h8 : Statement .h8 := ⟨by decide, by decide⟩
theorem h9 : Statement .h9 := ⟨by decide, by decide⟩
theorem h10 : Statement .h10 := ⟨by decide, by decide⟩

end Sys2Proof.Laws.TableRow
end

