-- ==== Sys2Proof/Laws/Step.lean ====
section
/-! SUPPORT. What one turn and one step can do, said once, and the run lemmas. -/

namespace Sys2Proof.Machine

theorem step_eq (s : State) : step s = nextTurn s := rfl

/-- The decoder and the phase codes agree: in a busy phase the sequencer runs this instruction (R96). -/
theorem sequencerTurn_eq (s : State) :
    sequencerTurn s =
      match s.ph with
      | .idle => .next s
      | .lH0 => exec .lH0 s
      | .lCnt => exec .lCnt s
      | .lSel => exec .lSel s
      | .lRnd => exec .lRnd s
      | .lOut => exec .lOut s
      | .tDisp => exec .tDisp s
      | .tDrift => exec .tDrift s
      | .tPush => exec .tPush s
      | .tRet => exec .tRet s
      | .cCat => exec .cCat s
      | .cR1 => exec .cR1 s
      | .cR2 => exec .cR2 s
      | .done => .next s
      | .err => .next s := by
  unfold sequencerTurn
  cases s.ph <;> rfl

/-- A phase without a micro-operation has no step (R11). -/
theorem sequencerTurn_of_not_busy {s : State} (h : busyFlag s = false) : sequencerTurn s = .next s := by
  rw [sequencerTurn_eq]
  revert h
  unfold busyFlag
  cases s.ph <;> simp [isBusyPhase, Phase.code]

/-- Everything a step can do: one of the five kinds of turn (R70). -/
theorem step_cases (s : State) :
    (s.turns = [] ∧ step s = sequencerTurn s)
    ∨ (∃ a rest, s.turns = .host a :: rest ∧ step s = hostAccess a { s with turns := rest })
    ∨ (∃ rest, s.turns = .hardReset :: rest ∧ step s = .next (resetBlock { s with turns := rest }))
    ∨ (∃ rest, s.turns = .seq :: rest ∧ step s = sequencerTurn { s with turns := rest })
    ∨ (∃ rest, s.turns = .wait :: rest ∧ busyFlag s = true ∧ step s = sequencerTurn s)
    ∨ (∃ rest, s.turns = .wait :: rest ∧ busyFlag s = false
        ∧ step s = .next { s with turns := rest, rdata := some (statusWord s) }) := by
  rw [step_eq]
  unfold nextTurn
  cases h : s.turns with
  | nil => exact .inl ⟨rfl, rfl⟩
  | cons t rest =>
    cases t with
    | host a => exact .inr (.inl ⟨a, rest, rfl, rfl⟩)
    | hardReset => exact .inr (.inr (.inl ⟨rest, rfl, rfl⟩))
    | seq => exact .inr (.inr (.inr (.inl ⟨rest, rfl, rfl⟩)))
    | wait =>
      cases hb : busyFlag s with
      | true => exact .inr (.inr (.inr (.inr (.inl ⟨rest, rfl, rfl, by simp [takeTurn, hb]⟩))))
      | false => exact .inr (.inr (.inr (.inr (.inr ⟨rest, rfl, rfl, by simp [takeTurn, hb]⟩))))

/-- Which writes take effect (R61, R62): offset 0 dispatches, offset 0x18 sets IEN, every other one changes nothing. -/
theorem memWrite_cases (off : Nat) (v : Word) (s : State) :
    (off = 0x000 ∧ memWrite off v s = dispatchWord v s)
    ∨ (off = 0x018 ∧ memWrite off v s = .next { s with ien := v.extractLsb' 0 2 })
    ∨ (off ≠ 0x000 ∧ off ≠ 0x018 ∧ memWrite off v s = .next s) := by
  by_cases h0 : off = 0x000
  · exact .inl ⟨h0, by subst h0; rfl⟩
  · by_cases h1 : off = 0x018
    · exact .inr (.inl ⟨h1, by subst h1; rfl⟩)
    · refine .inr (.inr ⟨h0, h1, ?_⟩)
      have hr : regAt off ≠ some .cmd ∧ regAt off ≠ some .ien := by
        unfold regAt
        constructor <;> (repeat' split) <;> first | contradiction | simp
      unfold memWrite
      split
      · exact absurd ‹_› hr.1
      · exact absurd ‹_› hr.2
      · rfl

/-- Everything a host access can do (R62, R64). -/
theorem hostAccess_cases (a : Access) (s : State) :
    (a.wellFormed = false ∧ hostAccess a s = .refused .notAWordAccess)
    ∨ (∃ off len, a = .read off len ∧ a.wellFormed = true
        ∧ hostAccess a s = .next { s with rdata := some (memRead s off) })
    ∨ (∃ off len v, a = .write off len v ∧ a.wellFormed = true ∧ hostAccess a s = memWrite off v s) := by
  unfold hostAccess
  cases h : a.wellFormed with
  | false => exact .inl ⟨rfl, by simp⟩
  | true =>
    cases a with
    | read off len => exact .inr (.inl ⟨off, len, rfl, rfl, by simp⟩)
    | write off len v => exact .inr (.inr ⟨off, len, v, rfl, rfl, by simp⟩)

@[simp] theorem runSteps_zero (s : State) : runSteps 0 s = .next s := rfl

theorem runSteps_succ {k : Nat} {s t : State} (h : step s = .next t) : runSteps (k + 1) s = runSteps k t := by
  simp [runSteps, h]

/-- A run of j + k steps is a run of j steps followed by one of k. -/
theorem runSteps_add {j k : Nat} {s t : State} (h : runSteps j s = .next t) : runSteps (j + k) s = runSteps k t := by
  induction j generalizing s with
  | zero => simp only [runSteps_zero, Host.Outcome.next.injEq] at h; subst h; simp
  | succ j ih =>
    rw [Nat.succ_add]
    cases hs : step s with
    | next u => rw [runSteps_succ hs] at h ⊢; exact ih h
    | fault r => simp [runSteps, hs] at h
    | refused r => simp [runSteps, hs] at h

/-- The claims' run is the host interface's run of this machine. -/
theorem runSteps_eq_coreRun (k : Nat) (s : State) : runSteps k s = Host.Core.run Sys2Proof.core k s := by
  induction k generalizing s with
  | zero => rfl
  | succ k ih =>
    have hc : Sys2Proof.core.step s = step s := rfl
    simp only [runSteps, Host.Core.run, hc]
    cases hs : step s with
    | next t => exact ih t
    | fault r => rfl
    | refused r => rfl

end Sys2Proof.Machine
end

