-- ==== Sys2Proof/Tests/Slice0.lean ====
section
/-! SUPPORT. The model's own tests: smoke tests of WellFormed, one written-out word per operation, single steps against the
spec's worked values (spec/95_test_vectors.md), and for every statement with hypotheses a concrete case that meets them. -/

namespace Sys2Proof.Tests

open Sys2Proof Sys2Proof.Machine

/-! WellFormed: one ill-formed access per check of R64, and the two ends of the register space -/

theorem test_wf_refuses_narrow : (Access.read 0x004 2).wellFormed = false := by decide
theorem test_wf_refuses_misaligned : (Access.write 0x002 4 0).wellFormed = false := by decide
theorem test_wf_refuses_outside : (Access.read 0x1000 4).wellFormed = false := by decide
theorem test_wf_accepts_ends : (Access.read 0x000 4).wellFormed = true ∧ (Access.read 0xFFC 4).wellFormed = true := by
  decide
theorem test_wf_instr : (Instr.tree 255).wellFormed = true := by decide

/-! Decoding: each word written bit by bit from the tables of 30_encoding.md (RSV 31:16, ARG 15:8, OPC 7:0; PHASE4; SEL4) -/

theorem test_decode_nop : decode (.cmd 0b00000000000000000000000000000000) = .instr (.nop) := by decide
theorem test_decode_hclr : decode (.cmd 0b00000000000000000000000000000001) = .instr (.hclr) := by decide
theorem test_decode_hpush : decode (.cmd 0b00000000000000001010101100000010) = .instr (.hpush 0xAB) := by decide
theorem test_decode_leaf : decode (.cmd 0b00000000000000000000000000010000) = .instr (.leaf) := by decide
theorem test_decode_tree : decode (.cmd 0b00000000000000000000011100010001) = .instr (.tree 7) := by decide
theorem test_decode_pow : decode (.cmd 0b00000000000000000000000000010010) = .instr (.pow) := by decide
theorem test_decode_ack : decode (.cmd 0b00000000000000000000000000100000) = .instr (.ack) := by decide
theorem test_decode_srst : decode (.cmd 0b00000000000000000000000001111111) = .instr (.srst) := by decide
theorem test_decode_lH0 : decode (.phase 0b0001) = .instr .lH0 := by decide
theorem test_decode_lCnt : decode (.phase 0b0010) = .instr .lCnt := by decide
theorem test_decode_lSel : decode (.phase 0b0011) = .instr .lSel := by decide
theorem test_decode_lRnd : decode (.phase 0b0100) = .instr .lRnd := by decide
theorem test_decode_lOut : decode (.phase 0b0101) = .instr .lOut := by decide
theorem test_decode_tDisp : decode (.phase 0b0110) = .instr .tDisp := by decide
theorem test_decode_tDrift : decode (.phase 0b0111) = .instr .tDrift := by decide
theorem test_decode_tPush : decode (.phase 0b1000) = .instr .tPush := by decide
theorem test_decode_tRet : decode (.phase 0b1001) = .instr .tRet := by decide
theorem test_decode_cCat : decode (.phase 0b1010) = .instr .cCat := by decide
theorem test_decode_cR1 : decode (.phase 0b1011) = .instr .cR1 := by decide
theorem test_decode_cR2 : decode (.phase 0b1100) = .instr .cR2 := by decide
theorem test_decode_h0 : decode (.sel 0b0000) = .instr .h0 := by decide
theorem test_decode_h1 : decode (.sel 0b0001) = .instr .h1 := by decide
theorem test_decode_h2 : decode (.sel 0b0010) = .instr .h2 := by decide
theorem test_decode_h3 : decode (.sel 0b0011) = .instr .h3 := by decide
theorem test_decode_h4 : decode (.sel 0b0100) = .instr .h4 := by decide
theorem test_decode_h5 : decode (.sel 0b0101) = .instr .h5 := by decide
theorem test_decode_h6 : decode (.sel 0b0110) = .instr .h6 := by decide
theorem test_decode_h7 : decode (.sel 0b0111) = .instr .h7 := by decide
theorem test_decode_h8 : decode (.sel 0b1000) = .instr .h8 := by decide
theorem test_decode_h9 : decode (.sel 0b1001) = .instr .h9 := by decide
theorem test_decode_h10 : decode (.sel 0b1010) = .instr .h10 := by decide
theorem test_decode_rejects : decode (.cmd 0xDEADBEEF) = .reject .illegal ∧ decode (.phase 0) = .reject .noMicroOp
    ∧ decode (.phase 15) = .reject .reservedPhase ∧ decode (.sel 11) = .reject .reservedSelection := by decide
theorem test_table_word : decodeTableWord 32 0x0000AB02 = some (.hpush 0xAB) ∧ decodeTableWord 8 0xC = some .cR2
    ∧ decodeTableWord 8 0 = some .h0 ∧ decodeTableWord 8 13 = none := by decide

/-! States small enough to write: reset with a few fields set -/

/-- A loaded header, phase p. -/
def loaded (p : Phase) : State := { State.reset with ph := p, hcnt := 80 }
/-- The middle of a run at root level l, stack index d. -/
def running (p : Phase) (l : BitVec 3) (d : Fin NFRAMES) : State :=
  { State.reset with ph := p, hcnt := 80, rootlvl := l, sp := d, lastop := 0x11 }
/-- A working digest with byte j set. -/
def workByte (j : Fin 64) (b : Byte) : WorkDigest := (zeroBytes 64).set j.val b
/-- One field of the state an outcome goes on to. -/
def after {α : Type} (o : Outcome) (f : State → α) : Option α :=
  match o with
  | .next s => some (f s)
  | _ => none

/-! The spec's worked values, one step each -/

/-- 95_test_vectors.md 3.5: after `hloadz`, `tree 2` accepted. -/
theorem test_tree_accepted : after (exec (.tree 2) (loaded .idle)) statusWord = some 0x02110019 := by decide
/-- 3.5: `tree 2` at DONE, then `ack`, then `hclr` instead. -/
theorem test_ack_at_done :
    after (exec .ack (running .done 2 0)) statusWord = some 0x02110008
      ∧ after (exec .hclr (running .done 2 0)) statusWord = some 0x021100D2 := by decide
/-- 3.6: `tree 0`, E_LEVEL. -/
theorem test_tree_zero :
    after (exec (.tree 0) (loaded .idle)) (fun s => (statusWord s, errorCode s.errcode, s.errinfo))
      = some (0x000000EC, 2, 0x00000011) := by decide
/-- 3.6: `pow` with HCNT = 79, E_LEN; `tree 0` with HCNT = 81, E_LEN before E_LEVEL. -/
theorem test_start_wrong_length :
    after (exec .pow { loaded .idle with hcnt := 79 }) (fun s => (statusWord s, errorCode s.errcode, s.errinfo))
        = some (0x000000E4, 1, 0x00000012)
      ∧ after (exec (.tree 0) { loaded .idle with hcnt := 81 }) (fun s => (errorCode s.errcode, s.errinfo))
        = some (1, 0x00000011) := by decide
/-- 3.6: `hpush 3` and an ILLEGAL word while busy, E_BUSY; an ILLEGAL word in DONE, E_CMD; dropped in ERR. -/
theorem test_dispatch_errors :
    after (dispatchWord 0x00000302 (running .lH0 7 0)) (fun s => (errorCode s.errcode, s.errinfo)) = some (4, 0x302)
      ∧ after (dispatchWord 0xDEADBEEF (running .cR1 7 5)) (fun s => (errorCode s.errcode, s.errinfo))
        = some (4, 0xDEADBEEF)
      ∧ after (dispatchWord 0x33 (loaded .done)) (fun s => errorCode s.errcode) = some 5
      ∧ after (dispatchWord 0x33 (loaded .err)) id = some (loaded .err) := by decide
/-- R202's example: HCNT = 76, `hpush 0xE4`; the 81st byte is dropped; the counter saturates. -/
theorem test_hpush :
    after (exec (.hpush 0xE4) { loaded .idle with hcnt := 76 }) (fun s => (s.hdr[76], s.hcnt)) = some (0xE4, 77)
      ∧ after (exec (.hpush 0xAB) (loaded .idle)) (fun s => (s.hdr, s.hcnt)) = some (zeroBytes _, 81)
      ∧ after (exec (.hpush 1) { loaded .idle with hcnt := 255 }) (·.hcnt) = some 255 := by decide
/-- R207: SRST in phase C_R1 gives PH = IDLE, STATUS = 0. -/
theorem test_srst : after (exec .srst (running .cR1 7 5)) statusWord = some 0 := by decide
/-- 3.2 T1: the iteration count and the selection as functions of a byte. -/
theorem test_t1_count :
    [0x00, 0x01, 0x04, 0x05, 0x0A, 0x2C, 0x56, 0x80, 0xFE, 0xFF].map (fun b => iterCount (workByte 63 b))
      = [2, 3, 6, 2, 2, 6, 3, 5, 6, 2] := by decide
theorem test_t1_select :
    [0x00, 0x0A, 0x0B, 0x62, 0x7F, 0xFC, 0xFD, 0xFE, 0xFF].map (fun b => (selIndex (workByte 3 b) 3).val)
      = [0, 10, 0, 10, 6, 10, 0, 1, 2] := by decide
/-- L_SEL: I = 1 < N = 3 with W[1] = 0x62 selects 10 (L1); I = N leaves the loop with K kept. -/
theorem test_lSel :
    after (exec .lSel { running .lSel 2 0 with dp := { zeroDatapath with w := workByte 1 0x62, i := 1, n := 3 } })
        (fun s => (s.ph, s.dp.k.val)) = some (.lRnd, 10)
      ∧ after (exec .lSel { running .lSel 2 0 with dp := { zeroDatapath with k := 7, i := 3, n := 3 } })
        (fun s => (s.ph, s.dp.k.val)) = some (.lOut, 7) := by decide
/-- 3.3 T2: the reduction and the addition, the wraps among them. -/
theorem test_t2 :
    [(0x0000FFFE, 0x00000000), (0x0000FFFF, 0x12345678), (0x00010000, 0x12345678), (0xFFFFFFFF, 0), (0xFE3B89EB, 0x4F4E4D4C),
      (0xDE9E7DBE, 0xFFFFFFFF), (0x0000FFFE, 0xFFFF0002)].map (fun p : Word × Word => add32 p.2 (reduceDrift p.1))
      = [0x0000FFFE, 0x12345678, 0x12345679, 0, 0x4F4ED573, 0x00005C5C, 0x00000000] := by decide
/-- R234, R235: the examples of the little-endian helpers. -/
theorem test_le32 : le32dec #v[0xf0, 0x7e, 0xf4, 0x17] = 0x17F47EF0 ∧ le32enc 0x000096E4 = #v[0xe4, 0x96, 0x00, 0x00] := by
  decide
/-- L1's leaf digest, bytes 24..31, at the root of `tree 2` (P2 step 10). -/
def selfL1 : Digest :=
  ((((((((zeroBytes 32).set 24 0xf0).set 25 0x7e).set 26 0xf4).set 27 0x17).set 28 0x68).set 29 0x77).set 30 0x00).set 31 0x24
theorem test_tDrift :
    after (exec .tDrift (putFrame (running .tDrift 2 0) 0 { zeroFrame with self := selfL1, cs := 2 }))
      (fun s => ((frameAt s 0).n1, (frameAt s 0).n2, (frameAt s 0).cs, s.ph)) = some (0x96E4, 0x9B68, 0, .tPush) := by
  decide
/-- T_DISP: CURLVL = 1 returns LD, CURLVL = 2 keeps it as SELF. -/
theorem test_tDisp :
    after (exec .tDisp { running .tDisp 2 1 with dp := { zeroDatapath with ld := selfL1 } }) (fun s => (s.ph, s.dp.ret))
        = some (.tRet, selfL1)
      ∧ after (exec .tDisp { running .tDisp 2 0 with dp := { zeroDatapath with ld := selfL1 } })
        (fun s => (s.ph, (frameAt s 0).self)) = some (.tDrift, selfL1) := by decide
/-- P2 steps 11 and 28, and the RIGHT_FIRST remark after it: which nonce each push gives the child. -/
theorem test_push_order :
    let s := putFrame (running .tPush 2 0) 0 { zeroFrame with n1 := 0x96E4, n2 := 0x9B68 }
    after (treePush .leftFirst s) (fun t => ((frameAt t 1).nonce, t.sp.val)) = some (0x96E4, 1)
      ∧ after (treePush .rightFirst s) (fun t => ((frameAt t 1).nonce, t.sp.val)) = some (0x9B68, 1) := by decide
/-- C2: with RIGHT_FIRST the first return fills RIGHT; the second return goes to C_CAT. -/
theorem test_return_order :
    let s := { running .tRet 2 1 with dp := { zeroDatapath with ret := selfL1 } }
    after (treeReturn .rightFirst s) (fun t => ((frameAt t 0).right, (frameAt t 0).left, t.ph))
        = some (selfL1, zeroBytes _, .tPush)
      ∧ after (treeReturn .leftFirst (putFrame s 0 { zeroFrame with cs := 1 })) (fun t => ((frameAt t 0).right, t.ph))
        = some (selfL1, .cCat) := by decide
/-- T_RET at the root: RES and DONE in one step. -/
theorem test_tRet_root :
    after (exec .tRet { running .tRet 2 0 with dp := { zeroDatapath with ret := selfL1 } })
      (fun s => (s.res, statusWord s)) = some (selfL1, 0x021100DA) := by decide
/-- L_OUT keeps the low offsets; C_CAT's order. -/
theorem test_lOut : after (exec .lOut { running .lOut 2 0 with dp := { zeroDatapath with w := (workByte 24 0xf0).set 32 1 } })
    (fun s => s.dp.ld) = some ((zeroBytes 32).set 24 0xf0) := by decide
theorem test_cCat :
    after (exec .cCat (putFrame (running .cCat 2 0) 0 { zeroFrame with self := (zeroBytes 32).set 31 1, left := (zeroBytes 32).set 0 2, right := (zeroBytes 32).set 31 3 }))
      (fun s => (s.dp.cb[31], s.dp.cb[32], s.dp.cb[95])) = some (1, 2, 3) := by decide
/-- 3.7: the interrupt line. -/
theorem test_irq :
    [(0, Phase.done), (1, .done), (2, .done), (1, .err), (2, .err), (3, .idle)].map
        (fun p : BitVec 2 × Phase => irqLine { State.reset with ien := p.1, ph := p.2 })
      = [false, true, false, false, true, false] := by decide
/-- 3.5: a write of all ones to IEN reads back 3; reserved and read-only offsets ignore writes. -/
theorem test_ports :
    after (memWrite 0x018 0xFFFFFFFF State.reset) (fun s => memRead s 0x018) = some 3
      ∧ after (memWrite 0x004 0xFFFFFFFF State.reset) id = some State.reset
      ∧ after (memWrite 0x01C 0xFFFFFFFF State.reset) id = some State.reset
      ∧ memRead (loaded .idle) 0x010 = 80 ∧ memRead (loaded .idle) 0x090 = 0 := by decide

/-! The TOY stand-in units of 95_test_vectors.md section 2, for the functional definitions -/

/-- The accumulator after the message. -/
def toyAbsorb : List Byte → Nat → Nat
  | [], acc => acc
  | b :: bs, acc => toyAbsorb bs ((acc * 33 + b.toNat + 1) % 4294967296)
/-- The output bytes. -/
def toySqueeze : Nat → Nat → List Byte
  | 0, _ => []
  | k + 1, acc =>
    let acc := (acc * 1103515245 + 12345) % 4294967296
    BitVec.ofNat 8 (acc / 65536) :: toySqueeze k acc
def toyx (tag : Nat) (m : List Byte) (len : Nat) : List Byte := toySqueeze len (toyAbsorb m (m.length + 131 * tag))
def toBytes (n : Nat) (l : List Byte) : Bytes n := Vector.ofFn fun j => l.getD j.val 0
def toyUnits : Units where
  h k m := toBytes WORK_LEN (toyx k.val m 64)
  c256 m := toBytes DIGEST_LEN (toyx 11 m 32)

/-- Section 2: the hand-checkable unit vectors. -/
theorem test_toyx : toyx 0 [] 4 = [0x00, 0xdc, 0x04, 0x65] ∧ toyx 11 [] 4 = [0x3f, 0x23, 0xc7, 0xf6] := by decide
/-- L1: the leaf hash of the all-zero header. -/
theorem test_leafHash_L1 :
    leafHash toyUnits (zeroBytes 80) = #v[0x1d, 0xea, 0x87, 0x73, 0x02, 0xc5, 0x64, 0xc4, 0x37, 0x42, 0xfc, 0xe6, 0x74, 0x47,
      0x29, 0xa2, 0x6c, 0x6e, 0x87, 0xc3, 0xcc, 0x4b, 0xcf, 0x3b, 0xf0, 0x7e, 0xf4, 0x17, 0x68, 0x77, 0x00, 0x24] := by
  decide +kernel
/-- T3, level 2: RES, and the 44 steps. -/
theorem test_treeHash_T3 :
    treeHash toyUnits (zeroBytes 80) 2 = some #v[0xc0, 0xfd, 0x84, 0x32, 0x50, 0x9d, 0xb4, 0x9a, 0x26, 0xea, 0xc7, 0xf7, 0xfb,
      0xd5, 0x9a, 0xf5, 0x57, 0x42, 0xbf, 0x24, 0xcf, 0x98, 0x1b, 0x63, 0xff, 0x09, 0x41, 0x0a, 0x45, 0x9e, 0x8d, 0xda]
      ∧ treeSteps toyUnits 1 (zeroBytes 80) = 44 := by
  decide +kernel
/-- P2 steps 1 and 4 (bytes that steer the control), on the micro-operations with the TOY units. -/
theorem test_lH0_toy :
    (leafFirstPass toyUnits (running .lH0 2 0)).dp.w[63] = 0x56 ∧ (leafFirstPass toyUnits (running .lH0 2 0)).dp.w[1] = 0x62
      ∧ (leafRound toyUnits { leafFirstPass toyUnits (running .lH0 2 0) with dp.k := 10, dp.i := 1 }).dp.w[2] = 0x59 := by
  decide +kernel

/-! The fetch: rows of each format run as the first instruction after reset -/

theorem test_fetch_command : after (step (State.reset.withFetchWord 32 0x0000AB02)) (fun s => (s.hdr[0], s.hcnt)) = some (0xAB, 1) := by
  decide
theorem test_fetch_phase : after (step (State.reset.withFetchWord 8 2)) (fun s => (s.ph, s.dp.n)) = some (.lSel, 2) := by decide
theorem test_fetch_selection :
    step (State.reset.withFetchWord 8 0) = exec .lRnd { State.reset with ph := .lRnd } := rfl

/-! Witnesses: for each statement with hypotheses, concrete states and operands that meet them, clause by clause, at the ends
of the ranges -/

/-- A write of a word to CMD as the next turn. -/
def withCommand (c : Word) (rest : List Turn) (s : State) : State := { s with turns := .host (.write 0 4 c) :: rest }
/-- A state whose digest and counter are not zero. -/
def dirty (s : State) : State := { s with res := (zeroBytes 32).set 0 7, leafcnt := 5, dp.ret := (zeroBytes 32).set 1 9 }

theorem test_witness_CommandDecodeFollowsTable :
    rowMatches (.cmd 0x0000FF02) (tableRow (.hpush 0)) = true ∧ rowMatches (.cmd 0x0000FF02) (tableRow (.hpush 255)) = true
      ∧ decode (.cmd 0x0000FF02) = .instr (.hpush 255) ∧ decode (.cmd 0x00000011) = .instr (.tree 0) := by decide
theorem test_witness_SpecExamplesDecode : (loaded .idle).ph = .idle ∧ (loaded .done).ph = .done ∧ (loaded .done).hcnt = 80 := by
  decide
/-- HclrClearsCounter and HpushAppendsByte: each phase group; and a start for HCLR's last clause. -/
theorem test_witness_gated_commands :
    (loaded .idle).ph = .idle ∧ (loaded .done).ph = .done ∧ (loaded .err).ph = .err
      ∧ busyFlag (running .lH0 1 0) = true ∧ busyFlag (running .cR2 7 5) = true
      ∧ startLevel .leaf = some 1 ∧ encode .leaf = .cmd 0x10 := by decide
theorem test_witness_StartSequenceStartsRun :
    startLevel .leaf = some 1 ∧ encode .leaf = .cmd 0x10 ∧ startLevel .pow = some 7 ∧ encode .pow = .cmd 0x12
      ∧ startLevel (.tree 1) = some 1 ∧ encode (.tree 1) = .cmd 0x111 ∧ startLevel (.tree 7) = some 7
      ∧ startLevel (.tree 0) = some 0 ∧ startLevel (.tree 8) = some 8 ∧ startLevel (.tree 255) = some 255
      ∧ (loaded .done).hcnt.toNat = 80 ∧ ({ loaded .idle with hcnt := 79 }).hcnt.toNat ≠ 80 := by decide
theorem test_witness_AckLeavesDoneAndErr :
    ∃ t u, exec .ack (loaded .err) = .next t ∧ exec .ack (loaded .done) = .next u ∧ (loaded .idle).ph = .idle :=
  ⟨_, _, rfl, rfl, rfl⟩
theorem test_witness_BothResetsGiveResetValues :
    ({ running .cR1 7 5 with turns := [.hardReset, .seq] }).turns = .hardReset :: [.seq] := rfl
theorem test_witness_DispatchOrder :
    decode (.cmd 3) = .reject .illegal ∧ decode (.cmd 1) = .instr .hclr ∧ (3 : Word) ≠ 0x7F ∧ (3 : Word) ≠ 0
      ∧ (0x20 : Word) ≠ 0x7F ∧ (loaded .err).ph = .err ∧ busyFlag (running .tRet 7 6) = true := by decide
theorem test_witness_CommandWhileBusyLosesRun :
    RunInv (running .lH0 1 0) ∧ RunInv (running .lH0 7 6) ∧ busyFlag (running .lH0 7 6) = true :=
  ⟨by decide, by decide, by decide⟩
theorem test_witness_ErrorsArePrecise :
    ∃ t, step (withCommand 3 [.seq] (loaded .idle)) = .next t ∧ (withCommand 3 [.seq] (loaded .idle)).ph ≠ .err
      ∧ t.ph = .err := ⟨_, rfl, by decide, rfl⟩
theorem test_witness_FirstErrorIsKept :
    ∀ t ∈ [Turn.seq, .wait, .host (.read 0x008 4), .host (.write 0x018 4 3), .host (.write 0 4 0x12), .host (.write 0 4 0)],
      keepsError t = true := by decide
/-- The twelve micro-operations' clauses on the flags, each in its own phase; L_H0's clause on the root. -/
theorem test_witness_micro_operations :
    (∀ p : Phase, (running p 2 0).ph = p) ∧
    (running .lH0 1 0).sp = 0 ∧ (frameAt (running .lH0 1 0) 0).nonce = le32dec #v[0, 0, 0, 0]
      ∧ (running .lH0 1 0).hdr[76] = 0 := ⟨fun _ => rfl, by decide, by decide, by decide⟩
theorem test_witness_LSelSelectsPrimitive :
    ({ running .lSel 1 0 with dp.i := 1, dp.n := 2 }).dp.i.toNat < ({ running .lSel 1 0 with dp.i := 1, dp.n := 2 }).dp.n.toNat
      ∧ ({ running .lSel 1 0 with dp.i := 2, dp.n := 2 }).dp.n.toNat ≤ ({ running .lSel 1 0 with dp.i := 2, dp.n := 2 }).dp.i.toNat := by
  decide
theorem test_witness_RoundRunsTheSelectedPrimitive : (running .lRnd 1 0).ph = .lRnd ∧ (running .lH0 1 0).ph = .lH0 := by decide
theorem test_witness_LeafEngineComputesLeafHash : (running .lH0 7 6).ph = .lH0 ∧ (running .lH0 7 6).turns = [] := by decide
theorem test_witness_TDispSplitsTerminalAndInternal :
    (running .tDisp 7 6).rootlvl.toNat = (running .tDisp 7 6).sp.val + 1
      ∧ (running .tDisp 7 5).rootlvl.toNat ≠ (running .tDisp 7 5).sp.val + 1 := by decide
theorem test_witness_TPushCallsNextChild :
    (frameAt (running .tPush 7 0) 0).cs.val ≤ 1 ∧ (running .tPush 7 0).sp.val ≤ 5
      ∧ (frameAt (putFrame (running .tPush 7 5) 5 { zeroFrame with cs := 1 }) 5).cs.val ≤ 1
      ∧ (running .tPush 7 5).sp.val ≤ 5 := by decide
theorem test_witness_TRetReturnsToParent :
    (running .tRet 7 0).sp.val = 0 ∧ (running .tRet 7 1).sp.val = (0 : Fin 7).val + 1
      ∧ (running .tRet 7 6).sp.val = (5 : Fin 7).val + 1 ∧ (frameAt (running .tRet 7 6) 5).cs.val ≤ 1
      ∧ (frameAt (putFrame (running .tRet 7 6) 5 { zeroFrame with cs := 1 }) 5).cs.val = 1 := by decide
theorem test_witness_CallAndReturnStops :
    (frameAt (putFrame (running .tPush 7 1) 1 { zeroFrame with cs := 2 }) 1).cs.val = 2
      ∧ (running .tPush 7 6).sp.val = 6 ∧ (frameAt (running .tPush 7 6) 6).cs.val ≤ 1
      ∧ (running .tRet 7 1).sp.val = (0 : Fin 7).val + 1
      ∧ (frameAt (putFrame (running .tRet 7 1) 0 { zeroFrame with cs := 2 }) 0).cs.val = 2 := by decide
theorem test_witness_StepRunsDecodedInstruction :
    decode (.cmd 0x12) = .instr .pow ∧ Instr.wellFormed .pow = true
      ∧ decode (.phase (running .cR2 7 5).ph.code) = .instr .cR2 ∧ (running .cR2 7 5).turns = []
      ∧ (withCommand 0x12 [] (loaded .idle)).turns = .host (.write 0 4 0x12) :: []
      ∧ ({ running .cR2 7 5 with turns := [.seq] }).turns = .seq :: []
      ∧ ({ loaded .done with turns := [.wait] }).turns = .wait :: [] := by decide
theorem test_witness_HostReadReturnsRegister :
    ({ loaded .done with turns := [.host (.read 0xFFC 4)] }).turns = .host (.read 0xFFC 4) :: []
      ∧ 0xFFC % 4 = 0 ∧ 0x03C = 0x020 + 4 * (7 : Fin 8).val ∧ 0x08C = 0x040 + 4 * (19 : Fin 20).val := by decide
theorem test_witness_HostWriteEffects :
    ({ loaded .done with turns := [.host (.write 0x018 4 7)] }).turns = .host (.write 0x018 4 7) :: [] ∧ 0x018 % 4 = 0
      ∧ 0xFFC % 4 = 0 ∧ 0xFFC ≠ 0x018 := by decide
theorem test_witness_MalformedAccessIsRefused :
    ∀ off len v, (Access.read 0x1000 4) = .read off len ∨ (Access.read 0x1000 4) = .write off len v →
      len ≠ 4 ∨ off % 4 ≠ 0 ∨ 0xFFC < off := by
  rintro off len v (h | h) <;> cases h
  exact .inr (.inr (by decide))
theorem test_witness_HeaderFixedDuringRun :
    ∃ t, step (running .lH0 1 0) = .next t ∧ busyFlag (running .lH0 1 0) = true ∧ busyFlag t = true :=
  ⟨_, rfl, by decide, by decide⟩
theorem test_witness_ResultWrittenInTwoPlaces :
    (∃ t, step (dirty (running .tRet 1 0)) = .next t ∧ t.res ≠ (dirty (running .tRet 1 0)).res)
      ∧ (∃ t, step (withCommand 0x10 [] (dirty (loaded .done))) = .next t ∧ t.res ≠ (dirty (loaded .done)).res)
      ∧ (∃ t, step (withCommand 0x7F [] (dirty (loaded .done))) = .next t ∧ t.res ≠ (dirty (loaded .done)).res) :=
  ⟨⟨_, rfl, by decide⟩, ⟨_, rfl, by decide⟩, ⟨_, rfl, by decide⟩⟩
theorem test_witness_DoneMeansResultFinal :
    (∃ t, step (running .tRet 1 0) = .next t ∧ t.ph = .done ∧ (running .tRet 1 0).ph ≠ .done)
      ∧ (∃ t, step (loaded .done) = .next t ∧ t.ph = .done ∧ (loaded .done).ph = .done) :=
  ⟨⟨_, rfl, rfl, by decide⟩, ⟨_, rfl, rfl, rfl⟩⟩
theorem test_witness_LeafCounterMoves :
    (∃ t, step (running .lH0 1 0) = .next t ∧ t.leafcnt ≠ (running .lH0 1 0).leafcnt)
      ∧ (∃ t, step (withCommand 0x10 [] (dirty (loaded .idle))) = .next t ∧ t.leafcnt ≠ (dirty (loaded .idle)).leafcnt)
      ∧ (∃ t, step { dirty (loaded .idle) with turns := [.hardReset] } = .next t
          ∧ t.leafcnt ≠ (dirty (loaded .idle)).leafcnt) :=
  ⟨⟨_, rfl, by decide⟩, ⟨_, rfl, by decide⟩, ⟨_, rfl, by decide⟩⟩
theorem test_witness_StepKeepsErrorRecord :
    ErrInv { loaded .err with errcode := .eLen, errinfo := 0x12 } ∧ ErrInv (running .lH0 1 0)
      ∧ ∃ t, step (running .lH0 1 0) = .next t := ⟨by decide, by decide, _, rfl⟩
theorem test_witness_StepKeepsRunInvariant :
    RunInv (running .tDrift 7 5) ∧ busyFlag (running .tDrift 7 5) = true ∧ ∃ t, step (running .tDrift 7 5) = .next t :=
  ⟨by decide, by decide, _, rfl⟩
theorem test_witness_StepKeepsLeafCount :
    RunInv (running .lH0 1 0) ∧ LeafInv (running .lH0 1 0) ∧ (∃ t, step (running .lH0 1 0) = .next t)
      ∧ RunInv { running .tDisp 7 6 with leafcnt := 7 } ∧ LeafInv { running .tDisp 7 6 with leafcnt := 7 } :=
  ⟨by decide, by decide, ⟨_, rfl⟩, by decide, by decide⟩
theorem test_witness_RunsNeverFault :
    RunInv (running .tPush 7 5) ∧ busyFlag (running .tPush 7 5) = true
      ∧ RunInv { running .tRet 7 6 with turns := [.host (.read 1 4)] } :=
  ⟨by decide, by decide, by decide⟩
/-- CallTreeShape, StepCountOfRun and TreeHashUnfolds: the levels at the ends of their ranges, on any header. -/
theorem test_witness_levels : 1 ≤ 1 ∧ 1 ≤ 7 ∧ 7 ≤ 7 ∧ 2 ≤ 2 ∧ 7 < 8 := by decide
theorem test_witness_SubtreeReturnsTreeHash :
    (running .lH0 1 0).rootlvl.toNat = (running .lH0 1 0).sp.val + 0 + 1
      ∧ (running .lH0 7 0).rootlvl.toNat = (running .lH0 7 0).sp.val + 6 + 1
      ∧ (running .lH0 7 6).rootlvl.toNat = (running .lH0 7 6).sp.val + 0 + 1 ∧ (running .lH0 7 6).turns = [] := by decide
/-- The quiet turns of a host that reads, writes IEN and issues NOP; and enough sequencer turns to finish a LEAF run. -/
theorem test_witness_RunDeliversTreeHash :
    (∀ t ∈ [Turn.seq, .host (.read 0x004 4), .host (.write 0x018 4 1), .host (.write 0 4 0), .host (.write 0xFFC 4 9)],
        quietTurn t = true)
      ∧ (∀ t ∈ List.replicate 16 Turn.seq, quietTurn t = true) ∧ (List.replicate 16 Turn.seq).count Turn.seq = 16
      ∧ startLevel .leaf = some 1 ∧ encode .leaf = .cmd 0x10 ∧ (loaded .idle).hcnt = 80
      ∧ (withCommand 0x10 [Turn.seq] (loaded .idle)).turns = [Turn.host (.write 0 4 0x10), Turn.seq] := by decide
/-- Sixteen sequencer steps finish any LEAF run: `2 S + 4` with S at most 6; and no run finishes in none. -/
theorem test_witness_RunDeliversTreeHash_enough (h : Header) :
    0 < 2 * treeIters Config.units 0 h + 4 * 2 ^ 0 + 10 * (2 ^ 0 - 1)
      ∧ 2 * treeIters Config.units 0 h + 4 * 2 ^ 0 + 10 * (2 ^ 0 - 1) ≤ 16 := by
  have := iterCount_bounds (firstDigest Config.units h)
  simp only [treeIters, leafIters]
  omega
theorem test_witness_UndisturbedRunDelivers :
    startLevel .pow = some 7 ∧ encode .pow = .cmd 0x12 ∧ (loaded .done).hcnt = 80
      ∧ (withCommand 0x12 [] (loaded .done)).turns = [.host (.write 0 4 0x12)] := by decide
/-- Two states that differ in the datapath and look the same. -/
theorem test_witness_DatapathIsUnobservable :
    busyFlag (loaded .done) = false ∧ hostView (loaded .done) = hostView { loaded .done with dp.n := 7, dp.k := 9 }
      ∧ loaded .done ≠ { loaded .done with dp.n := 7, dp.k := 9 } := by decide
theorem test_witness_RunsAreDeterministic :
    (withCommand 0x111 [.wait] (loaded .idle)).turns = [.host (.write 0 4 0x111), .wait]
      ∧ (withCommand 0x111 [.wait] (dirty (loaded .done))).turns = [.host (.write 0 4 0x111), .wait]
      ∧ (loaded .idle).hdr = (dirty (loaded .done)).hdr ∧ startLevel (.tree 1) = some 1 := by decide
theorem test_witness_HloadLoadsHeader :
    (List.replicate 80 (3 : Byte)).length = 80
      ∧ ({ State.reset with turns := assembleLine (.hload (List.replicate 80 3)) ++ [Turn.seq] }).ph = .idle := by decide

end Sys2Proof.Tests
end

/-! The read-only views of the state: STATUS (R32), RESj and HDRWj (R38), and the offsets that show them. -/

namespace Sys2Proof.Machine

/-! Little-endian words of a byte sequence (R9, R234) -/

/-- Concatenation of bit vectors as arithmetic: the left part counts in units of `2 ^ m`. -/
theorem append_toNat {n m : Nat} (x : BitVec n) (y : BitVec m) : (x ++ y).toNat = 2 ^ m * x.toNat + y.toNat := by
  rw [BitVec.toNat_append, Nat.shiftLeft_eq, Nat.mul_comm, Nat.two_pow_add_eq_or_of_lt y.isLt]

/-- `le32dec` is the sum of R234. -/
theorem le32dec_toNat (b : Bytes 4) : (le32dec b).toNat = leNat b[0] b[1] b[2] b[3] := by
  simp only [le32dec, leNat, append_toNat]
  omega

/-- The word at an offset of a byte sequence is the little-endian value of the four bytes from there on. -/
theorem le32dec_slice_toNat {n : Nat} (b : Bytes n) (off : Nat) (h : off + 4 ≤ n) :
    (le32dec (slice b off 4 h)).toNat = leNat b[off] b[off + 1] b[off + 2] b[off + 3] := by
  simp [le32dec_toNat]

/-! The register map (R61) -/

/-- Each register stands at its own offset. -/
@[simp] theorem regAt_regOffset (r : Reg) : regAt (regOffset r) = some r := by
  cases r with
  | cmd | status | errcode | errinfo | hcnt | leafcnt | ien => rfl
  | res j =>
    have hj : 32 + 4 * j.val < 64 := by omega
    simp (disch := omega) [regAt, regOffset, hj, if_neg]
  | hdrw j =>
    have hj : 64 + 4 * j.val < 144 := by omega
    simp (disch := omega) [regAt, regOffset, hj, if_neg]

/-- A read at a register's offset shows the register (R62). -/
@[simp] theorem memRead_regOffset (s : State) (r : Reg) : memRead s (regOffset r) = readReg s r := by
  simp [memRead]

/-- A write to any register but CMD and IEN is ignored (R63). -/
theorem memWrite_regOffset_readOnly {r : Reg} (hc : r ≠ .cmd) (hi : r ≠ .ien) (v : Word) (s : State) :
    memWrite (regOffset r) v s = .next s := by
  unfold memWrite
  rw [regAt_regOffset]
  cases r with
  | cmd => exact absurd rfl hc
  | ien => exact absurd rfl hi
  | _ => rfl

/-! The flags and STATUS (R32) -/

theorem busyFlag_eq_decide (s : State) : busyFlag s = decide (1 ≤ s.ph.code.toNat ∧ s.ph.code.toNat ≤ 12) := rfl

theorem doneFlag_eq_decide (s : State) : doneFlag s = decide (s.ph = .done) := beq_eq_decide _ _

theorem errFlag_eq_decide (s : State) : errFlag s = decide (s.ph = .err) := beq_eq_decide _ _

theorem hrdyFlag_eq_decide (s : State) : hrdyFlag s = decide (s.hcnt.toNat = 80) := beq_eq_decide _ _

/-- A busy phase is none of IDLE, DONE and ERR. -/
theorem ph_ne_of_busyFlag {s : State} (h : busyFlag s = true) : s.ph ≠ .idle ∧ s.ph ≠ .done ∧ s.ph ≠ .err := by
  refine ⟨?_, ?_, ?_⟩ <;> intro hp <;> simp [busyFlag, hp, isBusyPhase, Phase.code] at h

theorem spBits_toNat (s : State) : (spBits s).toNat = s.sp.val := by
  have hsp : s.sp.val < 7 := s.sp.isLt
  simp only [spBits, BitVec.toNat_ofNat]
  omega

/-- STATUS as the sum of its fields, each at the weight R32 gives it. -/
theorem statusWord_toNat (s : State) :
    (statusWord s).toNat = (busyFlag s).toNat + 2 * (doneFlag s).toNat + 4 * (errFlag s).toNat
      + 8 * (hrdyFlag s).toNat + 2 ^ 4 * s.ph.code.toNat + 2 ^ 8 * s.sp.val + 2 ^ 16 * s.lastop.toNat
      + 2 ^ 24 * s.rootlvl.toNat := by
  simp only [statusWord, append_toNat, spBits_toNat, BitVec.toNat_ofBool, BitVec.toNat_ofNat]
  omega

/-- A bit of a bit vector, read off its number. -/
theorem getLsbD_of_toNat {w i : Nat} {x : BitVec w} {b : Bool} (h : x.toNat / 2 ^ i % 2 = b.toNat) : x.getLsbD i = b := by
  rw [BitVec.getLsbD, Nat.testBit_eq_decide_div_mod_eq, h]
  cases b <;> rfl

/-- R32: the phase is exactly one of IDLE, busy, DONE and ERR. -/
theorem exactly_one_phase_group (s : State) :
    (if s.ph = .idle then 1 else 0) + (if busyFlag s then 1 else 0) + (if doneFlag s then 1 else 0)
      + (if errFlag s then 1 else 0) = (1 : Nat) := by
  rcases phase_cases s with ⟨hp, hb⟩ | hb | ⟨hp, hb⟩ | ⟨hp, hb⟩
  · simp [doneFlag, errFlag, hp, hb]
  · obtain ⟨hidle, hdone, herr⟩ := ph_ne_of_busyFlag hb
    simp [doneFlag, errFlag, hidle, hdone, herr, hb]
  · simp [doneFlag, errFlag, hp, hb]
  · simp [doneFlag, errFlag, hp, hb]

/-- Settles O35: flags and wider fields are digits of the sum of the fields, as each field is smaller than the next
one's weight; the last clause is the split of the phases. -/
theorem statusFields : Obligations.StatusFields := by
  intro s
  have hsum := statusWord_toNat s
  have hbusy := Bool.toNat_le (busyFlag s)
  have hdone := Bool.toNat_le (doneFlag s)
  have herr := Bool.toNat_le (errFlag s)
  have hhrdy := Bool.toNat_le (hrdyFlag s)
  have hph := s.ph.code.isLt
  have hsp : s.sp.val < 7 := s.sp.isLt
  have hlast := s.lastop.isLt
  have hroot := s.rootlvl.isLt
  refine ⟨(getLsbD_of_toNat ?_).trans (busyFlag_eq_decide s), (getLsbD_of_toNat ?_).trans (doneFlag_eq_decide s),
    (getLsbD_of_toNat ?_).trans (errFlag_eq_decide s), (getLsbD_of_toNat ?_).trans (hrdyFlag_eq_decide s),
    ?_, ?_, ?_, ?_, ?_, ?_, exactly_one_phase_group s⟩ <;> omega

/-- Settles O36: each view is `le32dec` of a slice, and stands at an offset of the register map. -/
theorem bufferViewsAreLittleEndian : Obligations.BufferViewsAreLittleEndian := by
  intro s
  refine ⟨fun j => ?_, fun j => ?_, rfl, fun j v => ?_, fun j v => ?_, fun j => ?_, fun j => ?_⟩
  · exact le32dec_slice_toNat s.res (4 * j.val) _
  · exact le32dec_slice_toNat s.hdr (4 * j.val) _
  · exact memWrite_regOffset_readOnly (by simp) (by simp) v s
  · exact memWrite_regOffset_readOnly (by simp) (by simp) v s
  · exact memRead_regOffset s (.res j)
  · exact memRead_regOffset s (.hdrw j)

end Sys2Proof.Machine

/-! The host's write and the state DONE (spec/20_memory.md R63, R71), from what each kind of turn can do. -/

namespace Sys2Proof.Machine

/-! Writes to the register space (R61 to R63) -/

/-- A host write of one aligned word takes its effect in the step that takes its turn (R62). -/
theorem step_of_write {s : State} {off : Nat} {v : Word} {rest : List Turn} (h : s.turns = .host (.write off 4 v) :: rest)
    (ha : off % 4 = 0) (hr : off ≤ 0xFFC) : step s = memWrite off v { s with turns := rest } := by
  have hwf : (Access.write off 4 v).wellFormed = true := by simp [Access.wellFormed, wordShape, ha, hr]
  simp [step_eq, nextTurn, h, takeTurn, hostAccess, hwf]

/-- The offsets R61 leaves reserved hold no register; below 0x090 the only aligned one is 0x01C. -/
theorem regAt_reserved {off : Nat} (h : off = 0x01C ∨ 0x090 ≤ off) : regAt off = none := by
  rcases h with rfl | h
  · rfl
  · simp (disch := omega) [regAt, if_neg, dif_neg]

/-- A reserved offset reads as zero (R63). -/
theorem memRead_reserved (s : State) {off : Nat} (h : off = 0x01C ∨ 0x090 ≤ off) : memRead s off = 0 := by
  rw [memRead, regAt_reserved h]

/-- Settles O33: the step is `memWrite`, whose three cases are the three clauses on writes. -/
theorem hostWriteEffects : Obligations.HostWriteEffects := by
  intro s off v rest hturns halign hrange
  have hstep := step_of_write hturns halign hrange
  refine ⟨?_, ?_, ?_, memRead_reserved s, memRead_regOffset s .cmd⟩
  · rintro rfl
    exact hstep
  · rintro rfl
    refine ⟨{ s with turns := rest, ien := v.extractLsb' 0 2 }, hstep, rfl, ?_⟩
    simp
  · intro hcmd hien
    rcases memWrite_cases off v { s with turns := rest } with ⟨h, -⟩ | ⟨h, -⟩ | ⟨-, -, hkeep⟩
    · exact absurd h hcmd
    · exact absurd h hien
    · rw [hstep, hkeep]

/-! What the command dispatch can make of a state (R208) -/

/-- The states a word written to CMD can lead to: one constructor per effect, with the phases in which it happens. -/
inductive CommandEffect (s : State) : State → Prop
  /-- NOP, ACK in IDLE, and what is dropped in ERR -/
  | kept : CommandEffect s s
  /-- SRST -/
  | reset : CommandEffect s (resetBlock s)
  /-- ACK in ERR -/
  | errorLeft (h : s.ph = .err) : CommandEffect s (returnFromError s)
  /-- ACK in DONE -/
  | doneLeft (h : s.ph = .done) : CommandEffect s { s with ph := .idle }
  /-- an error entry, possible in every phase but ERR -/
  | raised (e : ErrCode) (c : Word) (h : s.ph ≠ .err) : CommandEffect s (raiseError e c s)
  /-- HCLR -/
  | cleared (h : s.ph = .idle ∨ s.ph = .done) : CommandEffect s (clearCounter s)
  /-- HPUSH -/
  | pushed (b : Byte) (h : s.ph = .idle ∨ s.ph = .done) : CommandEffect s (pushByte b s)
  /-- an accepted start -/
  | started (level : Nat) (c : Word) (h : s.ph = .idle ∨ s.ph = .done) : CommandEffect s (startRun level c s)

theorem ph_ne_err_of_ready {s : State} (h : s.ph = .idle ∨ s.ph = .done) : s.ph ≠ .err := by
  rcases h with h | h <;> simp [h]

/-- The gate of R208 adds to a command's own effect only the drop in ERR and E_BUSY. -/
theorem CommandEffect.of_gate {c : Word} {own : State → State} {s : State}
    (h : s.ph = .idle ∨ s.ph = .done → CommandEffect s (own s)) : CommandEffect s (gateCommand c own s) := by
  rcases gateCommand_cases c own s with ⟨-, hg⟩ | ⟨hbusy, hg⟩ | ⟨hready, hg⟩ <;> rw [hg]
  · exact .kept
  · exact .raised _ _ (ph_ne_of_busyFlag hbusy).2.2
  · exact h hready

/-- The start sequence of R209 in IDLE and DONE: two errors or a start. -/
theorem CommandEffect.of_startSequence (level : Nat) (c : Word) {s : State} (h : s.ph = .idle ∨ s.ph = .done) :
    CommandEffect s (startSequence level c s) := by
  rcases startSequence_cases level c s with ⟨-, hs⟩ | ⟨-, -, hs⟩ | ⟨-, -, -, hs⟩ <;> rw [hs]
  · exact .raised _ _ (ph_ne_err_of_ready h)
  · exact .raised _ _ (ph_ne_err_of_ready h)
  · exact .started _ _ h

theorem CommandEffect.of_acknowledge (c : Word) (s : State) : CommandEffect s (acknowledge c s) := by
  rcases acknowledge_cases c s with ⟨herr, ha⟩ | ⟨hbusy, ha⟩ | ⟨hdone, ha⟩ | ⟨-, ha⟩ <;> rw [ha]
  · exact .errorLeft herr
  · exact .raised _ _ (ph_ne_of_busyFlag hbusy).2.2
  · exact .doneLeft hdone
  · exact .kept

theorem plainCommand_eq_instr {arg : Byte} {i j : Instr} (h : plainCommand arg i = .instr j) : j = i := by
  unfold plainCommand at h
  split at h
  · exact (Decoded.instr.inj h).symm
  · exact absurd h (by simp)

/-- A command word decodes to none but the eight host commands (R91). -/
theorem decode_cmd_instr {c : Word} {i : Instr} (h : decode (.cmd c) = .instr i) :
    i = .nop ∨ i = .hclr ∨ (∃ b, i = .hpush b) ∨ i = .leaf ∨ (∃ level, i = .tree level) ∨ i = .pow ∨ i = .ack
      ∨ i = .srst := by
  rw [decode, decodeCommand] at h
  split at h
  · exact absurd h (by simp)
  · split at h
    · simp [plainCommand_eq_instr h]
    · simp [plainCommand_eq_instr h]
    · simp [← Decoded.instr.inj h]
    · simp [plainCommand_eq_instr h]
    · simp [← Decoded.instr.inj h]
    · simp [plainCommand_eq_instr h]
    · simp [plainCommand_eq_instr h]
    · simp [plainCommand_eq_instr h]
    · exact absurd h (by simp)

/-- The dispatch always answers, with one of the effects above. -/
theorem dispatchWord_effect (c : Word) (s : State) : ∃ t, dispatchWord c s = .next t ∧ CommandEffect s t := by
  unfold dispatchWord
  cases h : decode (.cmd c) with
  | reject r => exact ⟨_, rfl, .of_gate fun hready => .raised _ _ (ph_ne_err_of_ready hready)⟩
  | instr i =>
    rcases decode_cmd_instr h with rfl | rfl | ⟨b, rfl⟩ | rfl | ⟨level, rfl⟩ | rfl | rfl | rfl
    · exact ⟨_, rfl, .kept⟩
    · exact ⟨_, rfl, .of_gate .cleared⟩
    · exact ⟨_, rfl, .of_gate (.pushed b)⟩
    · exact ⟨_, rfl, .of_gate (.of_startSequence _ _)⟩
    · exact ⟨_, rfl, .of_gate (.of_startSequence _ _)⟩
    · exact ⟨_, rfl, .of_gate (.of_startSequence _ _)⟩
    · exact ⟨_, rfl, .of_acknowledge _ s⟩
    · exact ⟨_, rfl, .reset⟩

/-! How the sequencer leaves a run (R71, R153) -/

/-- A child's return stays inside the run: the parent combines or calls its next child. -/
theorem busyFlag_leaveChild (c : Child) (p : Fin NFRAMES) (s : State) : busyFlag (leaveChild c p s) = true := by
  unfold leaveChild busyFlag
  dsimp only
  split <;> rfl

/-- A micro-operation finishes the run, which only T_RET at SP = 0 does, or leaves the block busy. -/
theorem sequencerTurn_finishes_or_busy {s t : State} (hb : busyFlag s = true) (h : sequencerTurn s = .next t) :
    (s.ph = .tRet ∧ s.sp = 0 ∧ t = finishRun s) ∨ busyFlag t = true := by
  obtain ⟨hidle, hdone, herr⟩ := ph_ne_of_busyFlag hb
  rw [sequencerTurn_eq] at h
  cases hp : s.ph <;> rw [hp] at h
  case idle => exact absurd hp hidle
  case done => exact absurd hp hdone
  case err => exact absurd hp herr
  case lSel =>
    obtain rfl := Host.Outcome.next.inj h
    rcases leafSelect_cases s with ⟨-, hsel⟩ | ⟨-, hsel⟩ <;> rw [hsel] <;> exact .inr rfl
  case tDisp =>
    obtain rfl := Host.Outcome.next.inj h
    rcases treeDispatch_cases s with ⟨-, hdisp⟩ | ⟨-, hdisp⟩ <;> rw [hdisp] <;> exact .inr rfl
  case tPush =>
    change treePush Config.childOrder s = .next t at h
    rcases treePush_cases Config.childOrder s with ⟨c, hsp, -, hpush⟩ | ⟨-, hpush⟩ | ⟨-, hpush⟩ <;> rw [hpush] at h
    · obtain rfl := Host.Outcome.next.inj h
      exact .inr rfl
    · cases h
    · cases h
  case tRet =>
    change treeReturn Config.childOrder s = .next t at h
    rcases treeReturn_cases Config.childOrder s with ⟨hsp, hret⟩ | ⟨-, c, -, hret⟩ | ⟨-, -, hret⟩ <;> rw [hret] at h
    · exact .inl ⟨rfl, Fin.ext hsp, (Host.Outcome.next.inj h).symm⟩
    · obtain rfl := Host.Outcome.next.inj h
      exact .inr (busyFlag_leaveChild c _ s)
    · cases h
  all_goals
    obtain rfl := Host.Outcome.next.inj h
    exact .inr rfl

/-! Steps that end in DONE (R71) -/

/-- What R71 allows of a step from `s` to a state `t` in DONE: T_RET of the root delivers RET, or the block was in DONE and
keeps the finished run's result, count, level and opcode. -/
def EndsInDone (s t : State) : Prop :=
  (s.ph = .tRet ∧ s.sp = 0 ∧ t.res = s.dp.ret)
  ∨ (s.ph = .done ∧ t.res = s.res ∧ t.leafcnt = s.leafcnt ∧ t.rootlvl = s.rootlvl ∧ t.lastop = s.lastop)

theorem EndsInDone.refl {s : State} (h : s.ph = .done) : EndsInDone s s := .inr ⟨h, rfl, rfl, rfl, rfl⟩

theorem sequencerTurn_endsInDone {s t : State} (h : sequencerTurn s = .next t) (hd : t.ph = .done) : EndsInDone s t := by
  cases hb : busyFlag s with
  | true =>
    rcases sequencerTurn_finishes_or_busy hb h with ⟨hp, hsp, rfl⟩ | ht
    · exact .inl ⟨hp, hsp, rfl⟩
    · exact absurd hd (ph_ne_of_busyFlag ht).2.1
  | false =>
    rw [sequencerTurn_of_not_busy hb] at h
    obtain rfl := Host.Outcome.next.inj h
    exact .refl hd

/-- No command enters DONE, and one that stays there touches at most the header. -/
theorem CommandEffect.endsInDone {s t : State} (h : CommandEffect s t) (hd : t.ph = .done) : EndsInDone s t := by
  cases h with
  | kept => exact .refl hd
  | cleared | pushed => exact .inr ⟨hd, rfl, rfl, rfl, rfl⟩
  | reset | errorLeft | doneLeft | raised | started => cases hd

theorem hostAccess_endsInDone {a : Access} {s t : State} (h : hostAccess a s = .next t) (hd : t.ph = .done) :
    EndsInDone s t := by
  rcases hostAccess_cases a s with ⟨-, ha⟩ | ⟨off, len, -, -, ha⟩ | ⟨off, len, v, -, -, ha⟩ <;> rw [ha] at h
  · cases h
  · obtain rfl := Host.Outcome.next.inj h
    exact .inr ⟨hd, rfl, rfl, rfl, rfl⟩
  · rcases memWrite_cases off v s with ⟨-, hw⟩ | ⟨-, hw⟩ | ⟨-, -, hw⟩ <;> rw [hw] at h
    · obtain ⟨u, hu, heffect⟩ := dispatchWord_effect v s
      rw [hu] at h
      obtain rfl := Host.Outcome.next.inj h
      exact heffect.endsInDone hd
    · obtain rfl := Host.Outcome.next.inj h
      exact .inr ⟨hd, rfl, rfl, rfl, rfl⟩
    · obtain rfl := Host.Outcome.next.inj h
      exact .refl hd

/-- Taking the turn off the queue does not matter to `EndsInDone`, so each kind of turn answers by its own lemma. -/
theorem step_endsInDone {s t : State} (h : step s = .next t) (hd : t.ph = .done) : EndsInDone s t := by
  rcases step_cases s with ⟨-, hs⟩ | ⟨a, rest, -, hs⟩ | ⟨rest, -, hs⟩ | ⟨rest, -, hs⟩ | ⟨rest, -, -, hs⟩ | ⟨rest, -, -, hs⟩
    <;> rw [hs] at h
  · exact sequencerTurn_endsInDone h hd
  · exact hostAccess_endsInDone (s := { s with turns := rest }) h hd
  · obtain rfl := Host.Outcome.next.inj h
    cases hd
  · exact sequencerTurn_endsInDone (s := { s with turns := rest }) h hd
  · exact sequencerTurn_endsInDone h hd
  · obtain rfl := Host.Outcome.next.inj h
    exact .inr ⟨hd, rfl, rfl, rfl, rfl⟩

/-- Settles O40, by the two ways a step can end in DONE; that DONE has no step is R11. -/
theorem doneMeansResultFinal : Obligations.DoneMeansResultFinal := by
  intro s t hstep hd
  have hidle : sequencerTurn t = .next t := sequencerTurn_of_not_busy (by simp [busyFlag, hd, isBusyPhase, Phase.code])
  rcases step_endsInDone hstep hd with ⟨hp, hsp, hres⟩ | ⟨hp, hkept⟩
  · exact ⟨hidle, fun _ => ⟨hp, hsp, hres⟩, fun hdone => absurd (hp.symm.trans hdone) (by decide)⟩
  · exact ⟨hidle, fun hne => absurd hp hne, fun _ => hkept⟩

end Sys2Proof.Machine

/-! The spec's own examples of decoding (spec/30_encoding.md R94), from the fields of a command word and the start sequence. -/

namespace Sys2Proof.Machine

/-! The fields of a command word (R90) -/

/-- A command word as the number of its fields. -/
theorem commandWord_toNat (opc arg : Byte) : (commandWord opc arg).toNat = 256 * arg.toNat + opc.toNat := by
  unfold commandWord
  rw [append_toNat, append_toNat]
  simp

@[simp] theorem opcField_commandWord (opc arg : Byte) : opcField (commandWord opc arg) = opc := by
  apply BitVec.eq_of_toNat_eq
  have hopc := opc.isLt
  simp only [opcField, BitVec.extractLsb'_toNat, commandWord_toNat, Nat.shiftRight_eq_div_pow]
  omega

@[simp] theorem argField_commandWord (opc arg : Byte) : argField (commandWord opc arg) = arg := by
  apply BitVec.eq_of_toNat_eq
  have hopc := opc.isLt
  have harg := arg.isLt
  simp only [argField, BitVec.extractLsb'_toNat, commandWord_toNat, Nat.shiftRight_eq_div_pow]
  omega

@[simp] theorem rsvField_commandWord (opc arg : Byte) : rsvField (commandWord opc arg) = 0 := by
  apply BitVec.eq_of_toNat_eq
  have hopc := opc.isLt
  have harg := arg.isLt
  simp only [rsvField, BitVec.extractLsb'_toNat, commandWord_toNat, Nat.shiftRight_eq_div_pow, BitVec.ofNat_eq_ofNat,
    BitVec.toNat_ofNat]
  omega

/-! Decoding by the fields (R91, R93) -/

/-- A word with a bit of RSV set is ILLEGAL. -/
theorem decode_of_rsvField_ne_zero {c : Word} (h : rsvField c ≠ 0) : decode (.cmd c) = .reject .illegal := if_pos h

/-- A command that takes no argument is legal without one. -/
theorem plainCommand_zero (i : Instr) : plainCommand 0 i = .instr i := if_pos rfl

/-- A command that takes no argument is ILLEGAL with one. -/
theorem plainCommand_of_ne_zero {arg : Byte} (h : arg ≠ 0) (i : Instr) : plainCommand arg i = .reject .illegal := if_neg h

theorem decode_nop (arg : Byte) : decode (.cmd (commandWord 0x00 arg)) = plainCommand arg .nop := by
  simp [decode, decodeCommand]

theorem decode_hpush (b : Byte) : decode (.cmd (commandWord 0x02 b)) = .instr (.hpush b) := by
  simp [decode, decodeCommand]

theorem decode_tree (level : Byte) : decode (.cmd (commandWord 0x11 level)) = .instr (.tree level) := by
  simp [decode, decodeCommand]

theorem decode_pow (arg : Byte) : decode (.cmd (commandWord 0x12 arg)) = plainCommand arg .pow := by
  simp [decode, decodeCommand]

/-- Opcode 0x03 selects no row of R91, whatever its argument. -/
theorem decode_opcode_three (arg : Byte) : decode (.cmd (commandWord 0x03 arg)) = .reject .illegal := by
  simp [decode, decodeCommand]

/-! The level check of TREE (R209) -/

/-- In IDLE and DONE a TREE word runs the start sequence. -/
theorem dispatchWord_tree {s : State} (hready : s.ph = .idle ∨ s.ph = .done) (level : Byte) :
    dispatchWord (commandWord 0x11 level) s = .next (startSequence level.toNat (commandWord 0x11 level) s) := by
  rw [dispatchWord, decode_tree]
  exact congrArg Host.Outcome.next (gateCommand_ready hready)

/-- With a full header, a level outside 1..7 raises E_LEVEL. -/
theorem startSequence_of_bad_level {s : State} {level : Nat} (hfull : s.hcnt.toNat = 80) (hlevel : level < 1 ∨ 7 < level)
    (c : Word) : startSequence level c s = raiseError .eLevel c s := by
  rcases startSequence_cases level c s with ⟨hlen, -⟩ | ⟨-, -, hs⟩ | ⟨-, hlow, hhigh, -⟩
  · exact absurd hfull hlen
  · exact hs
  · omega

theorem dispatchWord_tree_of_bad_level {s : State} (hready : s.ph = .idle ∨ s.ph = .done) (hfull : s.hcnt = 80)
    {level : Byte} (hlevel : level.toNat < 1 ∨ 7 < level.toNat) :
    dispatchWord (commandWord 0x11 level) s = .next (raiseError .eLevel (commandWord 0x11 level) s) := by
  rw [dispatchWord_tree hready, startSequence_of_bad_level (by rw [hfull]; rfl) hlevel]

/-- Settles O3: each word is an opcode with its argument, or has a bit of RSV set; levels 0 and 255 are outside 1..7. -/
theorem specExamplesDecode : Obligations.SpecExamplesDecode := by
  refine ⟨(decode_nop 0).trans (plainCommand_zero .nop), decode_hpush 0xAB, decode_tree 7, decode_tree 0, decode_tree 255,
    ?powWithArg, ?powWithRsv, decode_opcode_three 0, ?srstWithRsv, ?badLevels⟩
  case powWithArg => exact (decode_pow 1).trans (plainCommand_of_ne_zero (by decide) .pow)
  case powWithRsv => exact decode_of_rsvField_ne_zero (by decide)
  case srstWithRsv => exact decode_of_rsvField_ne_zero (by decide)
  case badLevels =>
    rintro s hready hfull c (rfl | rfl)
    · exact dispatchWord_tree_of_bad_level hready hfull (level := 0) (by decide)
    · exact dispatchWord_tree_of_bad_level hready hfull (level := 255) (by decide)

end Sys2Proof.Machine

/-! The leaf engine's micro-operations L_H0, L_CNT, L_SEL, L_RND and L_OUT (spec/40_leaf_engine.md R120 to R124), after the
facts about byte sequences and flags they rest on. -/

namespace Sys2Proof.Machine

/-! The bytes of the node's header (R9, R120, R235) -/

/-- A slice as a part of the byte list. -/
theorem slice_toList {n : Nat} (b : Bytes n) (off len : Nat) (h : off + len ≤ n) :
    (slice b off len h).toList = (b.toList.drop off).take len := by
  refine List.ext_getElem (by simp only [Vector.length_toList, List.length_take, List.length_drop]; omega) fun j _ _ => ?_
  simp

/-- Byte j of `le32enc` holds the eight bits of the word from bit 8 j on. -/
theorem le32enc_getElem (v : Word) (j : Nat) (hj : j < 4) : (le32enc v)[j] = v.extractLsb' (8 * j) 8 := by
  interval_cases j <;> rfl

/-- Byte j of `le32enc` is digit j of the word in base 256 (R235). -/
theorem le32enc_getElem_toNat (v : Word) (j : Nat) (hj : j < 4) :
    (le32enc v)[j].toNat = v.toNat / 2 ^ (8 * j) % 256 := by
  rw [le32enc_getElem v j hj, BitVec.extractLsb'_toNat, Nat.shiftRight_eq_div_pow]

/-- `le32enc` undoes `le32dec`, as the four bytes are the digits of the word's sum. -/
theorem le32enc_le32dec (b : Bytes 4) : le32enc (le32dec b) = b := by
  have h0 := b[0].isLt
  have h1 := b[1].isLt
  have h2 := b[2].isLt
  have h3 := b[3].isLt
  refine Vector.ext fun j hj => BitVec.eq_of_toNat_eq ?_
  rw [le32enc_getElem_toNat, le32dec_toNat, leNat]
  interval_cases j <;> omega

theorem withNonce_toList (h : Header) (v : Word) :
    (withNonce h v).toList = h.toList.take 76 ++ (le32enc v).toList := by
  change (slice h 0 76 _ ++ le32enc v).toList = _
  rw [Vector.toList_append, slice_toList, List.drop_zero]

/-- R120: the node's header is HDR[0..75], then the nonce of the node's frame. -/
theorem nodeHeader_toList (s : State) :
    (nodeHeader s).toList = s.hdr.toList.take 76 ++ (le32enc (frameAt s s.sp).nonce).toList := by
  rw [nodeHeader, withNonce_toList]

/-- A header with its own nonce written back is the header. -/
theorem withNonce_headerNonce (h : Header) : withNonce h (headerNonce h) = h := by
  apply Vector.toList_inj.mp
  have hrest : (h.toList.drop 76).length ≤ 4 := by simp
  rw [withNonce_toList, headerNonce, le32enc_le32dec, slice_toList, List.take_of_length_le hrest, List.take_append_drop]

theorem headerNonce_eq (h : Header) : headerNonce h = le32dec #v[h[76], h[77], h[78], h[79]] := by
  simp [headerNonce, le32dec, NONCE_OFF]

/-- R120 at the root: as long as FR[0] holds HDR's own nonce, the node's header is HDR. -/
theorem nodeHeader_root {s : State} (hsp : s.sp = 0) (hnonce : (frameAt s 0).nonce = headerNonce s.hdr) :
    nodeHeader s = s.hdr := by
  rw [nodeHeader, hsp, hnonce, withNonce_headerNonce]

/-! The flags during a run (R32) -/

theorem busyFlag_of_busyPhase {s : State} {p : Phase} (hp : s.ph = p) (hb : isBusyPhase p = true) : busyFlag s = true := by
  rw [busyFlag, hp, hb]

/-- All busy states show the same flags. -/
theorem flags_eq_of_busy {s t : State} (hs : busyFlag s = true) (ht : busyFlag t = true) :
    busyFlag t = busyFlag s ∧ doneFlag t = doneFlag s ∧ errFlag t = errFlag s := by
  obtain ⟨-, hsdone, hserr⟩ := ph_ne_of_busyFlag hs
  obtain ⟨-, htdone, hterr⟩ := ph_ne_of_busyFlag ht
  simp [doneFlag_eq_decide, errFlag_eq_decide, hs, ht, hsdone, htdone, hserr, hterr]

/-! What the leaf engine's operations compute (R120 to R124) -/

theorem exec_lH0 (s : State) : exec .lH0 s = .next (leafFirstPass Config.units s) := rfl
theorem exec_lCnt (s : State) : exec .lCnt s = .next (leafCount s) := rfl
theorem exec_lSel (s : State) : exec .lSel s = .next (leafSelect s) := rfl
theorem exec_lRnd (s : State) : exec .lRnd s = .next (leafRound Config.units s) := rfl
theorem exec_lOut (s : State) : exec .lOut s = .next (leafOut s) := rfl

/-- LEAFCNT counts modulo 2^32. -/
theorem leafFirstPass_leafcnt_toNat (U : Units) (s : State) :
    (leafFirstPass U s).leafcnt.toNat = (s.leafcnt.toNat + 1) % 2 ^ 32 := BitVec.toNat_add _ _

/-- The iteration count is at most 6, so it fits the 3 bits of N. -/
theorem leafCount_n_toNat (s : State) : (leafCount s).dp.n.toNat = iterCount s.dp.w := by
  obtain ⟨-, hmax⟩ := iterCount_bounds s.dp.w
  exact Nat.mod_eq_of_lt (by omega)

/-- L_SEL stays inside the run on both branches. -/
theorem busyFlag_leafSelect (s : State) : busyFlag (leafSelect s) = true := by
  rcases leafSelect_cases s with ⟨-, hsel⟩ | ⟨-, hsel⟩ <;> rw [hsel] <;> rfl

/-- I counts in its 3 bits. -/
theorem leafRound_i_toNat (U : Units) (s : State) : (leafRound U s).dp.i.toNat = (s.dp.i.toNat + 1) % 8 :=
  BitVec.toNat_add _ _

theorem truncate_getElem (w : WorkDigest) (j : Nat) (hj : j < 32) : (truncate w)[j] = w[j]'(Nat.lt_trans hj (by decide)) := by
  simp [truncate]

/-! The obligations -/

/-- Settles O15: the message is the node's header, whose bytes `nodeHeader_toList` gives, and `nodeHeader_root` at the
root. -/
theorem lH0FirstPass : Obligations.LH0FirstPass := by
  refine ⟨rfl, fun s => ⟨leafFirstPass Config.units s, (nodeHeader s).toList, exec_lH0 s, rfl, rfl, Vector.length_toList,
    nodeHeader_toList s, leafFirstPass_leafcnt_toNat _ s, fun hsp hnonce => ?root, fun hp => ?flags⟩⟩
  case root => rw [nodeHeader_root hsp (hnonce.trans (headerNonce_eq s.hdr).symm)]
  case flags => exact flags_eq_of_busy (busyFlag_of_busyPhase hp rfl) rfl

/-- Settles O16: N holds the iteration count whole. -/
theorem lCntSetsIterationCount : Obligations.LCntSetsIterationCount :=
  ⟨rfl, fun s => ⟨leafCount s, exec_lCnt s, rfl, leafCount_n_toNat s, rfl,
    fun hp => flags_eq_of_busy (busyFlag_of_busyPhase hp rfl) rfl⟩⟩

/-- Settles O17, by the two branches of L_SEL; each clause is void on the other's branch. -/
theorem lSelSelectsPrimitive : Obligations.LSelSelectsPrimitive := by
  refine ⟨rfl, fun s => ⟨leafSelect s, exec_lSel s, ?_⟩⟩
  have hflags (hp : s.ph = .lSel) := flags_eq_of_busy (busyFlag_of_busyPhase hp rfl) (busyFlag_leafSelect s)
  rcases leafSelect_cases s with ⟨hlt, hsel⟩ | ⟨hle, hsel⟩
  · refine ⟨by rw [hsel], fun _ => ?_, fun hle => absurd hlt (Nat.not_lt.mpr hle), hflags⟩
    rw [hsel]
    exact ⟨rfl, rfl⟩
  · refine ⟨by rw [hsel], fun hlt => absurd hlt (Nat.not_lt.mpr hle), fun _ => ?_, hflags⟩
    rw [hsel]
    exact ⟨rfl, rfl⟩

/-- Settles O18: the round's message is all of W. -/
theorem lRndHashesWorkingDigest : Obligations.LRndHashesWorkingDigest :=
  ⟨rfl, fun s => ⟨leafRound Config.units s, exec_lRnd s, rfl, rfl, Vector.length_toList, leafRound_i_toNat _ s,
    fun hp => flags_eq_of_busy (busyFlag_of_busyPhase hp rfl) rfl⟩⟩

/-- Settles O19: LD is the slice of W from offset 0. -/
theorem lOutTruncates : Obligations.LOutTruncates :=
  ⟨rfl, fun s => ⟨leafOut s, exec_lOut s, rfl, fun j => truncate_getElem s.dp.w j.val j.isLt,
    fun hp => flags_eq_of_busy (busyFlag_of_busyPhase hp rfl) rfl⟩⟩

end Sys2Proof.Machine

/-! Nonces of the call tree (spec/41_tree_controller.md R174, R176): the drift added to a nonce, and the header a node passes
to its children. -/

namespace Sys2Proof.Machine

/-! The drift (R174) -/

theorem reduceDrift_toNat (d : Word) : (reduceDrift d).toNat = d.toNat % 65535 :=
  Nat.mod_eq_of_lt (by unfold MAX_DRIFT; omega)

/-- A drift added to a nonce, as a number. -/
theorem add_reduceDrift_toNat (nonce d : Word) :
    (nonce + reduceDrift d).toNat = (nonce.toNat + d.toNat % 65535) % 2 ^ 32 := by
  rw [BitVec.toNat_add, reduceDrift_toNat]

/-- What a drift adds to a nonce is less than MAX_DRIFT modulo 2^32. -/
theorem add_reduceDrift_sub_lt (nonce d : Word) : (nonce + reduceDrift d - nonce).toNat < 0xFFFF := by
  rw [add_comm, add_sub_cancel_right, reduceDrift_toNat]
  exact Nat.mod_lt _ (by decide)

/-- Settles O48: both child nonces add a reduced drift; the identity for checking is `2^16 = 1` modulo 65535. -/
theorem driftBound : Obligations.DriftBound := by
  refine ⟨fun nonce self => ?_, fun d => ?_⟩
  · exact ⟨add_reduceDrift_sub_lt nonce _, add_reduceDrift_sub_lt nonce _, add_reduceDrift_toNat nonce _,
      add_reduceDrift_toNat nonce _⟩
  · rw [reduceDrift_toNat]
    omega

/-! The header of a child (R170 step 5) -/

theorem le32dec_le32enc (v : Word) : le32dec (le32enc v) = v := by
  apply BitVec.eq_of_toNat_eq
  have hv := v.isLt
  simp only [le32dec_toNat, leNat, le32enc_getElem_toNat]
  omega

theorem length_take_header (h : Header) : (h.toList.take 76).length = 76 := by simp [HEADER_LEN]

@[simp] theorem headerNonce_withNonce (h : Header) (v : Word) : headerNonce (withNonce h v) = v := by
  have hslice : slice (withNonce h v) NONCE_OFF 4 = le32enc v := by
    apply Vector.toList_inj.mp
    rw [slice_toList, withNonce_toList, List.drop_left' (length_take_header h), List.take_of_length_le (by simp)]
  rw [headerNonce, hslice, le32dec_le32enc]

/-- Only the last nonce written counts. -/
@[simp] theorem withNonce_withNonce (h : Header) (v w : Word) : withNonce (withNonce h v) w = withNonce h w := by
  apply Vector.toList_inj.mp
  rw [withNonce_toList, withNonce_toList, withNonce_toList, List.take_left' (length_take_header h)]

/-- Two headers with the same opaque bytes 0..75 (R176). -/
def SamePrefix (g h : Header) : Prop :=
  ∀ j : Fin 76, g[j.val]'(Nat.lt_trans j.isLt (by decide)) = h[j.val]'(Nat.lt_trans j.isLt (by decide))

theorem SamePrefix.refl (h : Header) : SamePrefix h h := fun _ => rfl

theorem SamePrefix.trans {f g h : Header} (hfg : SamePrefix f g) (hgh : SamePrefix g h) : SamePrefix f h :=
  fun j => (hfg j).trans (hgh j)

/-- A nonce is written behind the opaque bytes. -/
theorem samePrefix_withNonce (h : Header) (v : Word) : SamePrefix (withNonce h v) h := by
  intro j
  have hj : j.val < (h.toList.take 76).length := by rw [length_take_header]; exact j.isLt
  calc (withNonce h v)[j.val]
      = (withNonce h v).toList[j.val]'(by simp [HEADER_LEN]; omega) := (Vector.getElem_toList _).symm
    _ = (h.toList.take 76)[j.val] := by simp only [withNonce_toList, List.getElem_append_left hj]
    _ = h.toList[j.val]'(by simp [HEADER_LEN]; omega) := List.getElem_take
    _ = h[j.val] := Vector.getElem_toList _

/-! The call tree (R171, R176) -/

theorem length_treeHeaders (U : Units) (depth : Nat) (h : Header) :
    (treeHeaders U depth h).length = 2 ^ (depth + 1) - 1 := by
  induction depth generalizing h with
  | zero => rfl
  | succ depth ih =>
    have hpos : 0 < 2 ^ (depth + 1) := Nat.two_pow_pos _
    rw [treeHeaders, List.length_cons, List.length_append, ih, ih, Nat.pow_succ 2 (depth + 1)]
    omega

theorem samePrefix_of_mem_treeHeaders (U : Units) {depth : Nat} {g h : Header} (hg : g ∈ treeHeaders U depth h) :
    SamePrefix g h := by
  induction depth generalizing h with
  | zero => rw [List.mem_singleton.mp hg]; exact .refl h
  | succ depth ih =>
    rw [treeHeaders, List.mem_cons, List.mem_append] at hg
    rcases hg with rfl | hleft | hright
    · exact .refl g
    · exact (ih hleft).trans (samePrefix_withNonce h _)
    · exact (ih hright).trans (samePrefix_withNonce h _)

/-- Settles O49, by the recursion of the call tree. -/
theorem callTreeShape : Obligations.CallTreeShape := by
  intro U h level hlow _
  refine ⟨?_, fun g hg => samePrefix_of_mem_treeHeaders U hg⟩
  rw [length_treeHeaders, Nat.sub_add_cancel hlow]

end Sys2Proof.Machine

/-! The tree controller's micro-operations T_DISP, T_DRIFT, T_PUSH and T_RET (spec/41_tree_controller.md R150 to R154). -/

namespace Sys2Proof.Machine

theorem exec_tDisp (s : State) : exec .tDisp s = .next (treeDispatch s) := rfl
theorem exec_tDrift (s : State) : exec .tDrift s = .next (treeDrift s) := rfl
theorem exec_tPush (s : State) : exec .tPush s = treePush Config.childOrder s := rfl
theorem exec_tRet (s : State) : exec .tRet s = treeReturn Config.childOrder s := rfl

/-! T_DISP (R150) -/

theorem treeDispatch_terminal {s : State} (h : s.rootlvl.toNat = s.sp.val + 1) :
    treeDispatch s = { s with dp.ret := s.dp.ld, ph := .tRet } := by
  rcases treeDispatch_cases s with ⟨-, hdisp⟩ | ⟨hne, -⟩
  · exact hdisp
  · exact absurd h hne

theorem treeDispatch_internal {s : State} (h : s.rootlvl.toNat ≠ s.sp.val + 1) :
    treeDispatch s = { putFrame s s.sp { frameAt s s.sp with self := s.dp.ld } with ph := .tDrift } := by
  rcases treeDispatch_cases s with ⟨heq, -⟩ | ⟨-, hdisp⟩
  · exact absurd heq h
  · exact hdisp

/-- T_DISP stays inside the run on both branches. -/
theorem busyFlag_treeDispatch (s : State) : busyFlag (treeDispatch s) = true := by
  rcases treeDispatch_cases s with ⟨-, hdisp⟩ | ⟨-, hdisp⟩ <;> rw [hdisp] <;> rfl

/-- Which frame T_DISP of an internal node writes: the current one's SELF. -/
theorem frameAt_treeDispatch_internal {s : State} (h : s.rootlvl.toNat ≠ s.sp.val + 1) (d : Fin NFRAMES) :
    frameAt (treeDispatch s) d = if d = s.sp then { frameAt s s.sp with self := s.dp.ld } else frameAt s d := by
  rw [treeDispatch_internal h]
  exact frameAt_putFrame s s.sp d _

/-- Settles O23, by the two branches of T_DISP; each clause is void on the other's branch. -/
theorem tDispSplitsTerminalAndInternal : Obligations.TDispSplitsTerminalAndInternal := by
  refine ⟨rfl, fun s => ⟨treeDispatch s, exec_tDisp s, treeDispatch_terminal, fun hinternal => ⟨?_, ?_, fun d hd => ?_⟩,
    fun hp => flags_eq_of_busy (busyFlag_of_busyPhase hp rfl) (busyFlag_treeDispatch s)⟩⟩
  · rw [treeDispatch_internal hinternal]
    rfl
  · rw [frameAt_treeDispatch_internal hinternal, if_pos rfl]
  · rw [frameAt_treeDispatch_internal hinternal, if_neg hd]

/-! T_DRIFT (R151) -/

/-- The node's frame after T_DRIFT. -/
def driftFrame (f : Frame) : Frame :=
  { f with n1 := leftNonce f.nonce f.self, n2 := rightNonce f.nonce f.self, cs := 0 }

theorem frameAt_treeDrift (s : State) (d : Fin NFRAMES) :
    frameAt (treeDrift s) d = if d = s.sp then driftFrame (frameAt s s.sp) else frameAt s d :=
  frameAt_putFrame s s.sp d _

theorem leftNonce_toNat (nonce : Word) (self : Digest) :
    (leftNonce nonce self).toNat = (nonce.toNat + leNat self[24] self[25] self[26] self[27] % 65535) % 2 ^ 32 := by
  rw [← le32dec_slice_toNat self 24 (by decide)]
  exact add_reduceDrift_toNat nonce (driftA self)

theorem rightNonce_toNat (nonce : Word) (self : Digest) :
    (rightNonce nonce self).toNat = (nonce.toNat + leNat self[28] self[29] self[30] self[31] % 65535) % 2 ^ 32 := by
  rw [← le32dec_slice_toNat self 28 (by decide)]
  exact add_reduceDrift_toNat nonce (driftB self)

/-- Settles O24: only the current frame is written, with the two derived nonces. -/
theorem tDriftDerivesChildNonces : Obligations.TDriftDerivesChildNonces := by
  refine ⟨rfl, fun s => ⟨treeDrift s, exec_tDrift s, rfl, fun d hd => ?others, ?self, ?nonces,
    fun hp => flags_eq_of_busy (busyFlag_of_busyPhase hp rfl) rfl⟩⟩
  case others => rw [frameAt_treeDrift, if_neg hd]
  all_goals rw [frameAt_treeDrift, if_pos rfl]
  case self => rfl
  case nonces => exact ⟨leftNonce_toNat _ _, rightNonce_toNat _ _⟩

/-! T_PUSH (R152, R154) -/

/-- The child that is the (CS+1)-th to be evaluated, as the statements spell `child_sel` out (R154). -/
theorem childSel_of_le_one (o : ChildOrder) {cs : Fin 3} (h : cs.val ≤ 1) :
    childSel o cs = some (if (cs.val = 0 ↔ o = .leftFirst) then .left else .right) := by
  revert cs
  cases o <;> decide

theorem childNonce_ite (p : Prop) [Decidable p] (f : Frame) :
    childNonce (if p then .left else .right) f = if p then f.n1 else f.n2 := by
  split <;> rfl

theorem treePush_of_childSel {o : ChildOrder} {s : State} {c : Child} (hc : childSel o (frameAt s s.sp).cs = some c)
    (hsp : s.sp.val + 1 < NFRAMES) : treePush o s = .next (enterChild c ⟨s.sp.val + 1, hsp⟩ s) := by
  simp only [treePush, hc, dif_pos hsp]

theorem enterChild_sp (c : Child) (d : Fin NFRAMES) (s : State) : (enterChild c d s).sp = d := rfl

/-- Which frame a call writes: the nonce of the child's. -/
theorem frameAt_enterChild (c : Child) (d e : Fin NFRAMES) (s : State) :
    frameAt (enterChild c d s) e =
      if e = d then { frameAt s d with nonce := childNonce c (frameAt s s.sp) } else frameAt s e :=
  frameAt_putFrame s d e _

/-- Settles O25: the child's frame is the one above, and `childSel_of_le_one` says which nonce it is given. -/
theorem tPushCallsNextChild : Obligations.TPushCallsNextChild := by
  refine ⟨rfl, fun s hcs hsp => ?_⟩
  have hroom : s.sp.val + 1 < NFRAMES := by unfold NFRAMES; omega
  refine ⟨_, treePush_of_childSel (childSel_of_le_one _ hcs) hroom, rfl, rfl, fun d hd => ?others, ?child, ?nonce,
    fun hp => flags_eq_of_busy (busyFlag_of_busyPhase hp rfl) rfl⟩
  case others => exact (frameAt_enterChild _ _ d s).trans (if_neg hd)
  case child => rw [enterChild_sp, frameAt_enterChild, if_pos rfl]
  case nonce =>
    rw [enterChild_sp, frameAt_enterChild, if_pos rfl]
    exact childNonce_ite _ _

/-! T_RET (R153, R154) -/

theorem treeReturn_root {o : ChildOrder} {s : State} (h : s.sp.val = 0) : treeReturn o s = .next (finishRun s) := if_pos h

theorem parentOf_eq {d p : Fin NFRAMES} (h : d.val = p.val + 1) : parentOf d = p :=
  Fin.ext (by simp only [parentOf, h, Nat.add_sub_cancel])

theorem treeReturn_of_childSel {o : ChildOrder} {s : State} {c : Child} {p : Fin NFRAMES} (hsp : s.sp.val = p.val + 1)
    (hc : childSel o (frameAt s p).cs = some c) : treeReturn o s = .next (leaveChild c p s) := by
  have hne : s.sp.val ≠ 0 := by omega
  simp only [treeReturn, if_neg hne, parentOf_eq hsp, hc]

/-- Which frame a return writes: the parent's, with the child's digest filed and the child counted. -/
theorem frameAt_leaveChild (c : Child) (p d : Fin NFRAMES) (s : State) :
    frameAt (leaveChild c p s) d =
      if d = p then { fileChild c s.dp.ret (frameAt s p) with cs := (frameAt s p).cs + 1 } else frameAt s d :=
  frameAt_putFrame s p d _

theorem leaveChild_ph (c : Child) (p : Fin NFRAMES) (s : State) :
    (leaveChild c p s).ph = if (frameAt s p).cs.val = 1 then .cCat else .tPush := by
  simp only [leaveChild, Nat.reduceEqDiff]

theorem finishedChildren_succ {cs : Fin 3} (h : cs.val ≤ 1) : (cs + 1).val = cs.val + 1 := by
  revert cs
  decide

theorem fileChild_ite (p : Prop) [Decidable p] (r : Digest) (f : Frame) :
    fileChild (if p then .left else .right) r f = if p then { f with left := r } else { f with right := r } := by
  split <;> rfl

/-- Settles O26: at SP = 0 by `finishRun`, below by `leaveChild`, with `childSel_of_le_one` for the slot. -/
theorem tRetReturnsToParent : Obligations.TRetReturnsToParent := by
  refine ⟨rfl, fun s hroot => ⟨treeReturn_root hroot, fun t ht => ?done⟩, fun s p hsp hcs => ?below⟩
  case done =>
    rw [exec_tRet, treeReturn_root hroot] at ht
    obtain rfl := Host.Outcome.next.inj ht
    exact ⟨rfl, rfl, fun hien => by simp [irqLine, doneFlag, finishRun, hien]⟩
  case below =>
    refine ⟨_, treeReturn_of_childSel hsp (childSel_of_le_one _ hcs), rfl, fun d hd => ?others, ?count, ?combine, ?next,
      ?frame, fun hp => flags_eq_of_busy (busyFlag_of_busyPhase hp rfl) (busyFlag_leaveChild _ p s)⟩
    case others => rw [frameAt_leaveChild, if_neg hd]
    case combine => exact fun h => (leaveChild_ph _ p s).trans (if_pos h)
    case next => exact fun h => (leaveChild_ph _ p s).trans (if_neg (by omega))
    all_goals rw [frameAt_leaveChild, if_pos rfl]
    case count => exact finishedChildren_succ hcs
    case frame =>
      rw [fileChild_ite]
      split <;> rfl

end Sys2Proof.Machine

/-! Runs in which only the sequencer steps: what they leave unchanged, and how a host that reads, writes IEN and issues NOP
may be interleaved with them (spec/20_memory.md R70, spec/41_tree_controller.md R173). -/

namespace Sys2Proof.Machine

/-! One step (R70; log 4 with no turn queued) -/

theorem step_of_no_turns {s : State} (h : s.turns = []) : step s = sequencerTurn s := by
  rw [step_eq, nextTurn, h]

/-- With no turn queued the step is the micro-operation of the phase. -/
theorem step_of_phase {s : State} {p : Phase} {i : Instr} (hturns : s.turns = []) (hp : s.ph = p)
    (hi : decode (.phase p.code) = .instr i) : step s = exec i s := by
  rw [step_of_no_turns hturns, sequencerTurn, hp, hi]

theorem step_of_turn {s : State} {t : Turn} {rest : List Turn} (h : s.turns = t :: rest) : step s = takeTurn t rest s := by
  rw [step_eq, nextTurn, h]

theorem runSteps_one {s t : State} (h : step s = .next t) : runSteps 1 s = .next t := runSteps_succ h

theorem runSteps_trans {j k : Nat} {s t u : State} (hst : runSteps j s = .next t) (htu : runSteps k t = .next u) :
    runSteps (j + k) s = .next u := (runSteps_add hst).trans htu

/-- A block without a run idles (R279). -/
theorem runSteps_of_not_busy {s : State} (hturns : s.turns = []) (hb : busyFlag s = false) (k : Nat) :
    runSteps k s = .next s := by
  induction k with
  | zero => rfl
  | succ k ih => rw [runSteps_succ ((step_of_no_turns hturns).trans (sequencerTurn_of_not_busy hb)), ih]

/-! What the sequencer leaves unchanged (R73) -/

/-- `t` is a later state of the run `s` is in: the sequencer's steps short of the last touch nothing but PH, SP, LEAFCNT and
the datapath. -/
def SameRun (s t : State) : Prop := t = { s with ph := t.ph, sp := t.sp, leafcnt := t.leafcnt, dp := t.dp }

theorem SameRun.refl (s : State) : SameRun s s := rfl

theorem SameRun.trans {s t u : State} (hst : SameRun s t) (htu : SameRun t u) : SameRun s u := by
  unfold SameRun at *
  rw [htu, hst]

section
variable {s t : State} (h : SameRun s t)
include h

theorem SameRun.turns : t.turns = s.turns := by rw [h]
theorem SameRun.hdr : t.hdr = s.hdr := by rw [h]
theorem SameRun.hcnt : t.hcnt = s.hcnt := by rw [h]
theorem SameRun.rootlvl : t.rootlvl = s.rootlvl := by rw [h]
theorem SameRun.lastop : t.lastop = s.lastop := by rw [h]
theorem SameRun.res : t.res = s.res := by rw [h]
theorem SameRun.errcode : t.errcode = s.errcode := by rw [h]
theorem SameRun.errinfo : t.errinfo = s.errinfo := by rw [h]

end

/-- Everything a micro-operation can do to what is not its own: T_RET of the root ends the run, every other one stays in it. -/
theorem sequencerTurn_finishes_or_sameRun {s t : State} (h : sequencerTurn s = .next t) : t = finishRun s ∨ SameRun s t := by
  rw [sequencerTurn_eq] at h
  cases hp : s.ph <;> rw [hp] at h
  case lSel =>
    obtain rfl := Host.Outcome.next.inj h
    rcases leafSelect_cases s with ⟨-, hsel⟩ | ⟨-, hsel⟩ <;> rw [hsel] <;> exact .inr rfl
  case tDisp =>
    obtain rfl := Host.Outcome.next.inj h
    rcases treeDispatch_cases s with ⟨-, hdisp⟩ | ⟨-, hdisp⟩ <;> rw [hdisp] <;> exact .inr rfl
  case tPush =>
    rw [exec_tPush] at h
    rcases treePush_cases Config.childOrder s with ⟨c, hsp, -, hpush⟩ | ⟨-, hpush⟩ | ⟨-, hpush⟩ <;> rw [hpush] at h <;>
      cases h
    exact .inr rfl
  case tRet =>
    rw [exec_tRet] at h
    rcases treeReturn_cases Config.childOrder s with ⟨-, hret⟩ | ⟨-, c, -, hret⟩ | ⟨-, -, hret⟩ <;> rw [hret] at h <;>
      cases h
    · exact .inl rfl
    · exact .inr rfl
  all_goals
    obtain rfl := Host.Outcome.next.inj h
    exact .inr rfl

theorem sequencerTurn_turns {s t : State} (h : sequencerTurn s = .next t) : t.turns = s.turns := by
  rcases sequencerTurn_finishes_or_sameRun h with rfl | hsame
  · rfl
  · exact hsame.turns

/-- A run that is still busy was busy when it began, as only a host starts runs. -/
theorem busyFlag_of_runSteps {k : Nat} {s t : State} (hturns : s.turns = []) (h : runSteps k s = .next t)
    (ht : busyFlag t = true) : busyFlag s = true := by
  by_contra hs
  rw [runSteps_of_not_busy hturns (Bool.eq_false_of_not_eq_true hs)] at h
  exact hs (Host.Outcome.next.inj h ▸ ht)

/-- Every earlier state of a run that is busy at step j + k is a busy state of the same run. -/
theorem runSteps_busy_prefix {j k : Nat} {s t : State} (hturns : s.turns = []) (h : runSteps (j + k) s = .next t)
    (ht : busyFlag t = true) : ∃ u, runSteps j s = .next u ∧ busyFlag u = true ∧ SameRun s u := by
  induction j generalizing s with
  | zero => exact ⟨s, rfl, busyFlag_of_runSteps hturns h ht, .refl s⟩
  | succ j ih =>
    rw [Nat.succ_add] at h
    cases hstep : step s with
    | fault r => simp [runSteps, hstep] at h
    | refused r => simp [runSteps, hstep] at h
    | next v =>
      rw [runSteps_succ hstep] at h
      rw [step_of_no_turns hturns] at hstep
      have hvturns : v.turns = [] := (sequencerTurn_turns hstep).trans hturns
      have hvbusy := busyFlag_of_runSteps hvturns h ht
      have hsame : SameRun s v := by
        rcases sequencerTurn_finishes_or_sameRun hstep with rfl | hsame
        · exact absurd rfl (ph_ne_of_busyFlag hvbusy).2.1
        · exact hsame
      obtain ⟨u, hrun, hbusy, hrest⟩ := ih hvturns h
      exact ⟨u, by rw [runSteps_succ ((step_of_no_turns hturns).trans hstep), hrun], hbusy, hsame.trans hrest⟩

/-! A host that issues no command other than NOP (R173) -/

/-- The state with the fields a quiet host can change: its own queue, IEN, and the word it last read. -/
def setHost (ts : List Turn) (ien : BitVec 2) (rd : Option Word) (s : State) : State :=
  { s with turns := ts, ien := ien, rdata := rd }

theorem leafSelect_setHost (ts : List Turn) (ien : BitVec 2) (rd : Option Word) (s : State) :
    leafSelect (setHost ts ien rd s) = setHost ts ien rd (leafSelect s) := by
  unfold leafSelect
  rw [apply_ite (setHost ts ien rd)]
  rfl

theorem treeDispatch_setHost (ts : List Turn) (ien : BitVec 2) (rd : Option Word) (s : State) :
    treeDispatch (setHost ts ien rd s) = setHost ts ien rd (treeDispatch s) := by
  unfold treeDispatch
  rw [apply_ite (setHost ts ien rd)]
  rfl

/-- The sequencer neither reads nor writes what a quiet host changes. -/
theorem sequencerTurn_setHost (ts : List Turn) (ien : BitVec 2) (rd : Option Word) {s t : State}
    (h : sequencerTurn s = .next t) : sequencerTurn (setHost ts ien rd s) = .next (setHost ts ien rd t) := by
  have hph : (setHost ts ien rd s).ph = s.ph := rfl
  rw [sequencerTurn_eq] at h ⊢
  rw [hph]
  cases hp : s.ph <;> rw [hp] at h
  case lSel =>
    obtain rfl := Host.Outcome.next.inj h
    exact congrArg Host.Outcome.next (leafSelect_setHost ts ien rd s)
  case tDisp =>
    obtain rfl := Host.Outcome.next.inj h
    exact congrArg Host.Outcome.next (treeDispatch_setHost ts ien rd s)
  case tPush =>
    rw [exec_tPush] at h
    rcases treePush_cases Config.childOrder s with ⟨c, hsp, hc, hpush⟩ | ⟨-, hpush⟩ | ⟨-, hpush⟩ <;> rw [hpush] at h <;>
      cases h
    exact treePush_of_childSel (s := setHost ts ien rd s) hc hsp
  case tRet =>
    rw [exec_tRet] at h
    rcases treeReturn_cases Config.childOrder s with ⟨hsp, hret⟩ | ⟨hsp, c, hc, hret⟩ | ⟨-, -, hret⟩ <;>
      rw [hret] at h <;> cases h
    · exact treeReturn_root (s := setHost ts ien rd s) hsp
    · have hparent : s.sp.val = (parentOf s.sp).val + 1 := by simp only [parentOf]; omega
      exact treeReturn_of_childSel (s := setHost ts ien rd s) hparent hc
  all_goals
    obtain rfl := Host.Outcome.next.inj h
    rfl

/-- The word zero is NOP (R200). -/
theorem dispatchWord_zero (s : State) : dispatchWord 0 s = .next s := by
  have hnop : decode (.cmd 0) = .instr .nop := (decode_nop 0).trans (plainCommand_zero .nop)
  rw [dispatchWord, hnop]
  rfl

/-- A quiet turn of the host changes at most IEN and the read word. -/
theorem takeTurn_quiet {t : Turn} (hquiet : quietTurn t = true) (hseq : t ≠ .seq) (rest : List Turn) (s : State) :
    ∃ ien rd, takeTurn t rest s = .next (setHost rest ien rd s) := by
  cases t with
  | seq => exact absurd rfl hseq
  | hardReset => cases hquiet
  | wait => cases hquiet
  | host a =>
    rcases hostAccess_cases a { s with turns := rest } with ⟨hwf, -⟩ | ⟨off, len, -, -, ha⟩ | ⟨off, len, v, rfl, -, ha⟩
    · cases a <;> simp_all [quietTurn, Access.wellFormed]
    · exact ⟨_, _, ha⟩
    · rcases memWrite_cases off v { s with turns := rest } with ⟨rfl, hw⟩ | ⟨-, hw⟩ | ⟨-, -, hw⟩
      · obtain rfl : v = 0 := by simpa [quietTurn] using (Bool.and_eq_true_iff.mp hquiet).2
        exact ⟨s.ien, s.rdata, (ha.trans hw).trans (dispatchWord_zero _)⟩
      · exact ⟨_, _, ha.trans hw⟩
      · exact ⟨_, _, ha.trans hw⟩

/-- A run with quiet turns interleaved is the undisturbed run of its sequencer turns, but for what the host changed. -/
theorem runSteps_quiet {ts : List Turn} (hquiet : ∀ t ∈ ts, quietTurn t = true) (ien : BitVec 2) (rd : Option Word)
    {s u : State} (hturns : s.turns = []) (h : runSteps (ts.count .seq) s = .next u) :
    ∃ ien' rd', runSteps ts.length (setHost ts ien rd s) = .next (setHost [] ien' rd' u) := by
  induction ts generalizing ien rd s with
  | nil => exact ⟨ien, rd, by rw [← Host.Outcome.next.inj h]; rfl⟩
  | cons t rest ih =>
    obtain ⟨htquiet, hrest⟩ := List.forall_mem_cons.mp hquiet
    by_cases hseq : t = .seq
    · subst hseq
      rw [List.count_cons_self] at h
      cases hstep : step s with
      | fault r => simp [runSteps, hstep] at h
      | refused r => simp [runSteps, hstep] at h
      | next v =>
        rw [runSteps_succ hstep] at h
        rw [step_of_no_turns hturns] at hstep
        obtain ⟨ien', rd', hrun⟩ := ih hrest ien rd ((sequencerTurn_turns hstep).trans hturns) h
        have hturn := sequencerTurn_setHost rest ien rd hstep
        exact ⟨ien', rd', (runSteps_succ ((step_of_turn (s := setHost (.seq :: rest) ien rd s) rfl).trans hturn)).trans hrun⟩
    · rw [List.count_cons_of_ne hseq] at h
      obtain ⟨ien₁, rd₁, htake⟩ := takeTurn_quiet htquiet hseq rest (setHost (t :: rest) ien rd s)
      obtain ⟨ien', rd', hrun⟩ := ih hrest ien₁ rd₁ hturns h
      exact ⟨ien', rd', (runSteps_succ ((step_of_turn rfl).trans htake)).trans hrun⟩

end Sys2Proof.Machine

/-! The recursion of the tree controller (spec/41_tree_controller.md R173): from L_H0 the sequencer evaluates the node at SP
and arrives in T_RET with its tree hash in RET. -/

namespace Sys2Proof.Machine

/-! The step in each busy phase, with no turn queued -/

section
variable {s : State} (hturns : s.turns = [])
include hturns

theorem step_lH0 (hp : s.ph = .lH0) : step s = .next (leafFirstPass Config.units s) := step_of_phase hturns hp rfl
theorem step_lCnt (hp : s.ph = .lCnt) : step s = .next (leafCount s) := step_of_phase hturns hp rfl
theorem step_lSel (hp : s.ph = .lSel) : step s = .next (leafSelect s) := step_of_phase hturns hp rfl
theorem step_lRnd (hp : s.ph = .lRnd) : step s = .next (leafRound Config.units s) := step_of_phase hturns hp rfl
theorem step_lOut (hp : s.ph = .lOut) : step s = .next (leafOut s) := step_of_phase hturns hp rfl
theorem step_tDisp (hp : s.ph = .tDisp) : step s = .next (treeDispatch s) := step_of_phase hturns hp rfl
theorem step_tDrift (hp : s.ph = .tDrift) : step s = .next (treeDrift s) := step_of_phase hturns hp rfl
theorem step_tPush (hp : s.ph = .tPush) : step s = treePush Config.childOrder s := step_of_phase hturns hp rfl
theorem step_tRet (hp : s.ph = .tRet) : step s = treeReturn Config.childOrder s := step_of_phase hturns hp rfl
theorem step_cCat (hp : s.ph = .cCat) : step s = .next (combineCat s) := step_of_phase hturns hp rfl
theorem step_cR1 (hp : s.ph = .cR1) : step s = .next (combineFirst Config.units s) := step_of_phase hturns hp rfl
theorem step_cR2 (hp : s.ph = .cR2) : step s = .next (combineSecond Config.units s) := step_of_phase hturns hp rfl

end

/-! The leaf engine (R143) -/

/-- The state after L_SEL with a round to go and the round it selects (R122, R123). -/
def afterRound (s : State) : State :=
  leafRound Config.units { s with dp.k := selIndex s.dp.w s.dp.i.toNat, ph := .lRnd }

theorem afterRound_run {s : State} (hp : s.ph = .lSel) (hturns : s.turns = []) (hlt : s.dp.i.toNat < s.dp.n.toNat) :
    runSteps 2 s = .next (afterRound s) := by
  have hstep := step_lSel hturns hp
  rcases leafSelect_cases s with ⟨-, hsel⟩ | ⟨hle, -⟩
  · rw [hsel] at hstep
    exact (runSteps_succ hstep).trans (runSteps_one (step_lRnd hturns rfl))
  · exact absurd hlt (Nat.not_lt.mpr hle)

/-- While I < N, I + 1 fits the register (R144). -/
theorem afterRound_i_toNat {s : State} (h : s.dp.i.toNat < s.dp.n.toNat) : (afterRound s).dp.i.toNat = s.dp.i.toNat + 1 := by
  have hn := s.dp.n.isLt
  rw [afterRound, leafRound_i_toNat]
  exact Nat.mod_eq_of_lt (by dsimp only; omega)

/-- L_SEL after the last round, then L_OUT. -/
theorem leafExit_run {s : State} (hp : s.ph = .lSel) (hturns : s.turns = []) (hle : s.dp.n.toNat ≤ s.dp.i.toNat) :
    runSteps 2 s = .next (leafOut { s with ph := .lOut }) := by
  have hstep := step_lSel hturns hp
  rcases leafSelect_cases s with ⟨hlt, -⟩ | ⟨-, hsel⟩
  · exact absurd hlt (Nat.not_lt.mpr hle)
  · rw [hsel] at hstep
    exact (runSteps_succ hstep).trans (runSteps_one (step_lOut hturns rfl))

/-- The loop of the leaf engine, from L_SEL with `left` rounds to go, and L_OUT after it. -/
theorem leafLoop_run {left : Nat} {s : State} (hp : s.ph = .lSel) (hturns : s.turns = [])
    (hleft : s.dp.i.toNat + left = s.dp.n.toNat) :
    ∃ t, runSteps (2 * left + 2) s = .next t ∧ t = { s with ph := .tDisp, dp := { t.dp with fr := s.dp.fr } }
      ∧ t.dp.ld = truncate (leafRounds Config.units left s.dp.i.toNat s.dp.w) := by
  induction left generalizing s with
  | zero => exact ⟨_, leafExit_run hp hturns (by omega), by simp only [leafOut], by rw [leafRounds]; rfl⟩
  | succ left ih =>
    have hlt : s.dp.i.toNat < s.dp.n.toNat := by omega
    have hi := afterRound_i_toNat hlt
    obtain ⟨t, hrun, hframe, hld⟩ := ih (s := afterRound s) rfl hturns (by rw [hi, Nat.add_right_comm]; exact hleft)
    rw [hi] at hld
    rw [Nat.mul_succ, Nat.add_comm _ 2]
    exact ⟨t, runSteps_trans (afterRound_run hp hturns hlt) hrun, hframe, hld⟩

/-- From L_H0 the leaf engine reaches T_DISP in `2n + 2` steps with LD the leaf hash of the node's header (R143). -/
theorem leafEngine_run {s : State} (hp : s.ph = .lH0) (hturns : s.turns = []) :
    ∃ t, runSteps (2 * leafIters Config.units (nodeHeader s) + 2) s = .next t
      ∧ t = { s with ph := .tDisp, leafcnt := s.leafcnt + 1, dp := { t.dp with fr := s.dp.fr } }
      ∧ t.dp.ld = leafHash Config.units (nodeHeader s) := by
  have hfirst := step_lH0 hturns hp
  have hcount := step_lCnt (s := leafFirstPass Config.units s) hturns rfl
  have hn : (leafCount (leafFirstPass Config.units s)).dp.n.toNat = leafIters Config.units (nodeHeader s) :=
    leafCount_n_toNat _
  obtain ⟨hmin, -⟩ := iterCount_bounds (firstDigest Config.units (nodeHeader s))
  have hiters : 2 ≤ leafIters Config.units (nodeHeader s) := hmin
  obtain ⟨t, hrun, hframe, hld⟩ := leafLoop_run (left := leafIters Config.units (nodeHeader s) - 1)
    (s := leafCount (leafFirstPass Config.units s)) rfl hturns
    (by rw [hn]; change 1 + _ = _; omega)
  have hsteps : 2 * leafIters Config.units (nodeHeader s) + 2
      = 1 + 1 + (2 * (leafIters Config.units (nodeHeader s) - 1) + 2) := by omega
  refine ⟨t, ?_, hframe, hld⟩
  rw [hsteps]
  exact runSteps_trans (runSteps_trans (runSteps_one hfirst) (runSteps_one hcount)) hrun

/-! Runs inside one node -/

/-- `k` sequencer steps that begin and end at the same node and count `leaves` leaf hashes (R31, R276). -/
structure NodeRun (k leaves : Nat) (s t : State) : Prop where
  run : runSteps k s = .next t
  same : SameRun s t
  sp : t.sp = s.sp
  leafcnt : t.leafcnt = s.leafcnt + BitVec.ofNat 32 leaves
  below : ∀ d : Fin NFRAMES, d.val < s.sp.val → frameAt t d = frameAt s d

theorem NodeRun.trans {j k m n : Nat} {s t u : State} (hst : NodeRun j m s t) (htu : NodeRun k n t u) :
    NodeRun (j + k) (m + n) s u where
  run := runSteps_trans hst.run htu.run
  same := hst.same.trans htu.same
  sp := htu.sp.trans hst.sp
  leafcnt := by rw [htu.leafcnt, hst.leafcnt, BitVec.ofNat_add, BitVec.add_assoc]
  below d hd := (htu.below d (hst.sp ▸ hd)).trans (hst.below d hd)

/-- One step of the node's own micro-operations. -/
theorem NodeRun.of_step {s t : State} (hstep : step s = .next t)
    (hsame : t = { s with ph := t.ph, dp := t.dp }) (hbelow : ∀ d, d ≠ s.sp → frameAt t d = frameAt s d) :
    NodeRun 1 0 s t where
  run := runSteps_one hstep
  same := by rw [hsame]; rfl
  sp := by rw [hsame]
  leafcnt := by rw [hsame]; simp
  below d hd := hbelow d fun h => absurd hd (by rw [h]; exact Nat.lt_irrefl _)

theorem NodeRun.turns {k leaves : Nat} {s t : State} (h : NodeRun k leaves s t) (hturns : s.turns = []) : t.turns = [] :=
  h.same.turns.trans hturns

theorem nodeRun_leafEngine {s : State} (hp : s.ph = .lH0) (hturns : s.turns = []) :
    ∃ t, NodeRun (2 * leafIters Config.units (nodeHeader s) + 2) 1 s t ∧ t.ph = .tDisp
      ∧ t.dp.ld = leafHash Config.units (nodeHeader s) ∧ ∀ d, frameAt t d = frameAt s d := by
  obtain ⟨t, hrun, hframe, hld⟩ := leafEngine_run hp hturns
  have hframes : ∀ d, frameAt t d = frameAt s d := by rw [hframe]; exact fun _ => rfl
  exact ⟨t, ⟨hrun, by rw [hframe]; rfl, by rw [hframe], by rw [hframe]; rfl, fun d _ => hframes d⟩, by rw [hframe], hld,
    hframes⟩

/-! A terminal node (R150) -/

theorem terminalNode_run {s : State} (hp : s.ph = .lH0) (hturns : s.turns = [])
    (hlevel : s.rootlvl.toNat = s.sp.val + 1) :
    ∃ t, NodeRun (2 * leafIters Config.units (nodeHeader s) + 3) 1 s t ∧ t.ph = .tRet
      ∧ t.dp.ret = leafHash Config.units (nodeHeader s) ∧ frameAt t s.sp = frameAt s s.sp := by
  obtain ⟨t, hrun, htp, hld, hframes⟩ := nodeRun_leafEngine hp hturns
  have hstep := step_tDisp (hrun.turns hturns) htp
  rw [treeDispatch_terminal (by rw [hrun.same.rootlvl, hrun.sp, hlevel])] at hstep
  exact ⟨_, hrun.trans (.of_step hstep rfl fun _ _ => rfl), rfl, hld, hframes s.sp⟩

/-! An internal node: its own leaf hash and the nonces of its children (R150, R151) -/

theorem internalNode_prepares {s : State} (hp : s.ph = .lH0) (hturns : s.turns = [])
    (hlevel : s.rootlvl.toNat ≠ s.sp.val + 1) :
    ∃ t, NodeRun (2 * leafIters Config.units (nodeHeader s) + 4) 1 s t ∧ t.ph = .tPush
      ∧ frameAt t s.sp = driftFrame { frameAt s s.sp with self := leafHash Config.units (nodeHeader s) } := by
  obtain ⟨t, hrun, htp, hld, hframes⟩ := nodeRun_leafEngine hp hturns
  have hinternal : t.rootlvl.toNat ≠ t.sp.val + 1 := by rw [hrun.same.rootlvl, hrun.sp]; exact hlevel
  have hdisp := step_tDisp (hrun.turns hturns) htp
  have hdispRun : NodeRun 1 0 t (treeDispatch t) := by
    refine .of_step hdisp (by rw [treeDispatch_internal hinternal]; rfl) fun d hd => ?_
    rw [frameAt_treeDispatch_internal hinternal, if_neg hd]
  have hphase : (treeDispatch t).ph = .tDrift := by rw [treeDispatch_internal hinternal]
  have hdrift := step_tDrift (hdispRun.turns (hrun.turns hturns)) hphase
  have hdriftRun : NodeRun 1 0 (treeDispatch t) (treeDrift (treeDispatch t)) :=
    .of_step hdrift rfl fun d hd => by rw [frameAt_treeDrift, if_neg hd]
  refine ⟨_, hrun.trans (hdispRun.trans hdriftRun), rfl, ?_⟩
  rw [frameAt_treeDrift, hdispRun.sp, hrun.sp, if_pos rfl, ← hrun.sp, frameAt_treeDispatch_internal hinternal, if_pos rfl,
    hld, hframes]

/-! The recursive call (R152, R153) -/

/-- The header of the child `c` of the current node, once T_DRIFT has given its nonce. -/
def calledHeader (c : Child) (s : State) : Header := withNonce s.hdr (childNonce c (frameAt s s.sp))

/-- After T_DRIFT the children are called with the headers of R170 step 5. -/
theorem calledHeader_of_driftFrame {U : Units} {s t : State} (hhdr : t.hdr = s.hdr)
    (hframe : frameAt t t.sp = driftFrame { frameAt s s.sp with self := leafHash U (nodeHeader s) }) :
    calledHeader .left t = leftHeader U (nodeHeader s) ∧ calledHeader .right t = rightHeader U (nodeHeader s) := by
  simp only [calledHeader, hframe, hhdr, leftHeader, rightHeader, nodeHeader, withNonce_withNonce, headerNonce_withNonce]
  exact ⟨rfl, rfl⟩

/-- The induction hypothesis of the recursion (R173): a node at `depth` levels above the terminal one, entered in L_H0,
returns its tree hash, one step before its step count. -/
def NodeReturns (depth : Nat) : Prop :=
  ∀ s : State, s.ph = .lH0 → s.turns = [] → s.rootlvl.toNat = s.sp.val + depth + 1 →
    ∃ t, NodeRun (treeSteps Config.units depth (nodeHeader s) - 1) (2 ^ (depth + 1) - 1) s t ∧ t.ph = .tRet
      ∧ t.dp.ret = treeHashAt Config.units depth (nodeHeader s) ∧ (frameAt t s.sp).nonce = (frameAt s s.sp).nonce

theorem treeSteps_pos (U : Units) (depth : Nat) (h : Header) : 0 < treeSteps U depth h := by
  cases depth with
  | zero => exact Nat.succ_pos _
  | succ depth =>
    rw [treeSteps]
    omega

/-- One child: the call, the child's own run, and the return that files its digest. -/
theorem childCall_run {depth : Nat} (ih : NodeReturns depth) {s : State} {c : Child} (hp : s.ph = .tPush)
    (hturns : s.turns = []) (hlevel : s.rootlvl.toNat = s.sp.val + depth + 2)
    (hc : childSel Config.childOrder (frameAt s s.sp).cs = some c) :
    ∃ t, NodeRun (treeSteps Config.units depth (calledHeader c s) + 1) (2 ^ (depth + 1) - 1) s t
      ∧ t.ph = (if (frameAt s s.sp).cs.val = 1 then .cCat else .tPush)
      ∧ frameAt t s.sp = { fileChild c (treeHashAt Config.units depth (calledHeader c s)) (frameAt s s.sp) with
          cs := (frameAt s s.sp).cs + 1 } := by
  have hroom : s.sp.val + 1 < NFRAMES := by
    have := s.rootlvl.isLt
    unfold NFRAMES
    omega
  have hpush := (step_tPush hturns hp).trans (treePush_of_childSel hc hroom)
  have hheader : nodeHeader (enterChild c ⟨s.sp.val + 1, hroom⟩ s) = calledHeader c s := by
    rw [nodeHeader, enterChild_sp, frameAt_enterChild, if_pos rfl]
    rfl
  have hkept : ∀ d : Fin NFRAMES, d.val ≤ s.sp.val → frameAt (enterChild c ⟨s.sp.val + 1, hroom⟩ s) d = frameAt s d := by
    intro d hd
    have hne : d ≠ ⟨s.sp.val + 1, hroom⟩ := fun h => by
      have hval : d.val = s.sp.val + 1 := congrArg Fin.val h
      omega
    rw [frameAt_enterChild, if_neg hne]
  obtain ⟨t, hrun, htp, hret, -⟩ := ih (enterChild c ⟨s.sp.val + 1, hroom⟩ s) rfl hturns
    (by change s.rootlvl.toNat = s.sp.val + 1 + depth + 1; omega)
  rw [hheader] at hrun hret
  have hframes : ∀ d : Fin NFRAMES, d.val ≤ s.sp.val → frameAt t d = frameAt s d := fun d hd =>
    (hrun.below d (Nat.lt_succ_of_le hd)).trans (hkept d hd)
  have hparent := hframes s.sp (Nat.le_refl _)
  have htsp : t.sp.val = s.sp.val + 1 := congrArg Fin.val hrun.sp
  have hpop := (step_tRet (hrun.turns hturns) htp).trans
    (treeReturn_of_childSel htsp (by rw [hparent]; exact hc))
  have hsteps : treeSteps Config.units depth (calledHeader c s) + 1
      = 1 + (treeSteps Config.units depth (calledHeader c s) - 1) + 1 := by
    have := treeSteps_pos Config.units depth (calledHeader c s)
    omega
  have hentered : SameRun s (enterChild c ⟨s.sp.val + 1, hroom⟩ s) := rfl
  have hreturned : SameRun t (leaveChild c s.sp t) := rfl
  refine ⟨leaveChild c s.sp t, ⟨?run, hentered.trans (hrun.same.trans hreturned), rfl, hrun.leafcnt, ?below⟩, ?phase, ?frame⟩
  case run =>
    rw [hsteps]
    exact runSteps_trans (runSteps_trans (runSteps_one hpush) hrun.run) (runSteps_one hpop)
  case below =>
    intro d hd
    rw [frameAt_leaveChild, if_neg (Fin.ne_of_lt hd), hframes d (Nat.le_of_lt hd)]
  case phase => rw [leaveChild_ph, hparent]
  case frame => rw [frameAt_leaveChild, if_pos rfl, hparent, hret]

/-! Both children, in either order (R154, R185) -/

/-- A digest filed changes no nonce of a child. -/
theorem childNonce_fileChild (c e : Child) (r : Digest) (f : Frame) (cs : Fin 3) :
    childNonce c { fileChild e r f with cs := cs } = childNonce c f := by
  cases c <;> cases e <;> rfl

/-- The parent's frame after both returns does not depend on the order of the children. -/
theorem fileChild_both (o : ChildOrder) (r : Child → Digest) (f : Frame) (cs₁ cs₂ : Fin 3) :
    { fileChild (secondChild o) (r (secondChild o)) { fileChild (firstChild o) (r (firstChild o)) f with cs := cs₁ } with
      cs := cs₂ } = { f with left := r .left, right := r .right, cs := cs₂ } := by
  cases o <;> rfl

/-- Nor does a sum over both children. -/
theorem sum_children (o : ChildOrder) (g : Child → Nat) :
    g (firstChild o) + g (secondChild o) = g .left + g .right := by
  cases o
  · rfl
  · exact Nat.add_comm _ _

theorem bothChildren_run {depth : Nat} (ih : NodeReturns depth) {s : State} (hp : s.ph = .tPush) (hturns : s.turns = [])
    (hlevel : s.rootlvl.toNat = s.sp.val + depth + 2) (hcs : (frameAt s s.sp).cs = 0) :
    ∃ t, NodeRun (treeSteps Config.units depth (calledHeader .left s) + treeSteps Config.units depth (calledHeader .right s)
          + 2) (2 * (2 ^ (depth + 1) - 1)) s t
      ∧ t.ph = .cCat
      ∧ frameAt t s.sp = { frameAt s s.sp with
          left := treeHashAt Config.units depth (calledHeader .left s)
          right := treeHashAt Config.units depth (calledHeader .right s), cs := 2 } := by
  obtain ⟨t, hfirst, htp, htframe⟩ := childCall_run ih (c := firstChild Config.childOrder) hp hturns hlevel
    (by rw [hcs]; rfl)
  rw [hcs] at htp htframe
  have htcs : (frameAt t t.sp).cs = 1 := by rw [hfirst.sp, htframe]; rfl
  have hheader : ∀ c, calledHeader c t = calledHeader c s := fun c => by
    rw [calledHeader, hfirst.sp, htframe, hfirst.same.hdr, childNonce_fileChild, calledHeader]
  obtain ⟨u, hsecond, hup, huframe⟩ := childCall_run ih (c := secondChild Config.childOrder) htp (hfirst.turns hturns)
    (by rw [hfirst.same.rootlvl, hfirst.sp, hlevel]) (by rw [htcs]; rfl)
  rw [hheader] at hsecond huframe
  rw [htcs] at hup
  refine ⟨u, ?run, hup, ?frame⟩
  case run =>
    have hsteps := sum_children Config.childOrder fun c => treeSteps Config.units depth (calledHeader c s)
    have hrun := hfirst.trans hsecond
    rw [← Nat.two_mul, Nat.add_add_add_comm, hsteps] at hrun
    exact hrun
  case frame =>
    rw [hfirst.sp, htframe] at huframe
    exact huframe.trans (fileChild_both _ (fun c => treeHashAt Config.units depth (calledHeader c s)) _ _ _)

/-! The combination (R180 to R182, R184) -/

theorem combine_run {s : State} (hp : s.ph = .cCat) (hturns : s.turns = []) :
    ∃ t, NodeRun 3 0 s t ∧ t.ph = .tRet ∧ frameAt t s.sp = frameAt s s.sp
      ∧ t.dp.ret = combine Config.units (frameAt s s.sp).self (frameAt s s.sp).left (frameAt s s.sp).right := by
  have hcat := step_cCat hturns hp
  have hfirst := step_cR1 (s := combineCat s) hturns rfl
  have hsecond := step_cR2 (s := combineFirst Config.units (combineCat s)) hturns rfl
  have hcatRun : NodeRun 1 0 s (combineCat s) := .of_step hcat rfl fun _ _ => rfl
  have hfirstRun : NodeRun 1 0 (combineCat s) (combineFirst Config.units (combineCat s)) := .of_step hfirst rfl fun _ _ => rfl
  have hsecondRun := NodeRun.of_step hsecond rfl fun _ _ => rfl
  exact ⟨_, hcatRun.trans (hfirstRun.trans hsecondRun), rfl, rfl, by rw [combine]; rfl⟩

/-! The recursion (R173) -/

/-- An internal node returns the combination of its own leaf hash and its children's tree hashes. -/
theorem NodeReturns.succ {depth : Nat} (ih : NodeReturns depth) : NodeReturns (depth + 1) := by
  intro s hp hturns hlevel
  obtain ⟨t, hprep, htp, htframe⟩ := internalNode_prepares hp hturns (by omega)
  obtain ⟨hleft, hright⟩ := calledHeader_of_driftFrame hprep.same.hdr (by rw [hprep.sp, htframe])
  obtain ⟨u, hchildren, hup, huframe⟩ := bothChildren_run ih htp (hprep.turns hturns)
    (by rw [hprep.same.rootlvl, hprep.sp, hlevel]; omega) (by rw [hprep.sp, htframe]; rfl)
  obtain ⟨v, hcombine, hvp, hvframe, hret⟩ := combine_run hup (hchildren.turns (hprep.turns hturns))
  rw [hleft, hright, hprep.sp, htframe] at huframe
  rw [hchildren.sp, hprep.sp, huframe] at hvframe hret
  have hrun := hprep.trans (hchildren.trans hcombine)
  rw [hleft, hright] at hrun
  refine ⟨v, ?run, hvp, ?ret, by simp only [hvframe, driftFrame]⟩
  case ret => rw [hret, treeHashAt, driftFrame]
  have hsteps : treeSteps Config.units (depth + 1) (nodeHeader s) - 1
      = 2 * leafIters Config.units (nodeHeader s) + 4
        + (treeSteps Config.units depth (leftHeader Config.units (nodeHeader s))
          + treeSteps Config.units depth (rightHeader Config.units (nodeHeader s)) + 2 + 3) := by
    rw [treeSteps]
    omega
  have hleaves : 2 ^ (depth + 1 + 1) - 1 = 1 + (2 * (2 ^ (depth + 1) - 1) + 0) := by
    have := Nat.two_pow_pos (depth + 1)
    rw [Nat.pow_succ 2 (depth + 1)]
    omega
  rw [hsteps, hleaves]
  exact hrun

/-- R173's invariant: every node returns its tree hash. -/
theorem nodeReturns (depth : Nat) : NodeReturns depth := by
  induction depth with
  | zero =>
    intro s hp hturns hlevel
    obtain ⟨t, hrun, htp, hret, hframe⟩ := terminalNode_run hp hturns hlevel
    exact ⟨t, hrun, htp, hret, by rw [hframe]⟩
  | succ depth ih => exact ih.succ

end Sys2Proof.Machine

/-! An accepted start delivers the tree hash (spec/41_tree_controller.md R173, with the step count of R312). -/

namespace Sys2Proof.Machine

/-! The step count and the levels (R312, R170) -/

/-- The step count of R312 in closed form: each level doubles the leaves, and every node but the leaves is internal. -/
theorem treeSteps_eq (U : Units) (depth : Nat) (h : Header) :
    treeSteps U depth h = 2 * treeIters U depth h + 4 * 2 ^ depth + 10 * (2 ^ depth - 1) := by
  induction depth generalizing h with
  | zero => rfl
  | succ depth ih =>
    have hpos := Nat.two_pow_pos depth
    rw [treeSteps, treeIters, ih, ih, Nat.pow_succ]
    omega

theorem treeHash_of_level (U : Units) (h : Header) {level : Nat} (hlow : 1 ≤ level) (hhigh : level ≤ 7) :
    treeHash U h level = some (treeHashAt U (level - 1) h) := if_pos ⟨hlow, hhigh⟩

/-! The start (R203 to R205, R209) -/

theorem decode_leaf (arg : Byte) : decode (.cmd (commandWord 0x10 arg)) = plainCommand arg .leaf := by
  simp [decode, decodeCommand]

theorem step_of_command {s : State} {c : Word} {rest : List Turn} (h : s.turns = .host (.write 0 4 c) :: rest) :
    step s = dispatchWord c { s with turns := rest } := step_of_write h rfl (by decide)

/-- In IDLE and DONE the word of a start command runs the start sequence at its level. -/
theorem dispatchWord_start {i : Instr} {level : Nat} {c : Word} {s : State} (hlevel : startLevel i = some level)
    (hc : encode i = .cmd c) (hready : s.ph = .idle ∨ s.ph = .done) :
    dispatchWord c s = .next (startSequence level c s) := by
  cases i <;> cases hlevel <;> cases hc
  case leaf =>
    rw [dispatchWord, decode_leaf, plainCommand_zero]
    exact congrArg Host.Outcome.next (gateCommand_ready hready)
  case tree l => exact dispatchWord_tree hready l
  case pow =>
    rw [dispatchWord, decode_pow, plainCommand_zero]
    exact congrArg Host.Outcome.next (gateCommand_ready hready)

/-- LASTOP after a start is the command's opcode. -/
theorem opcField_start {i : Instr} {level : Nat} {c : Word} (hlevel : startLevel i = some level) (hc : encode i = .cmd c) :
    opcField c = startOpcode i := by
  cases i <;> cases hlevel <;> cases hc <;> exact opcField_commandWord _ _

theorem startSequence_accepted {s : State} {level : Nat} (hfull : s.hcnt.toNat = 80) (hlow : 1 ≤ level) (hhigh : level ≤ 7)
    (c : Word) : startSequence level c s = startRun level c s := by
  rcases startSequence_cases level c s with ⟨hlen, -⟩ | ⟨-, hbad, -⟩ | ⟨-, -, -, hs⟩
  · exact absurd hfull hlen
  · omega
  · exact hs

/-- The step that takes the write of a start command to CMD, with the checks of R209 passed. -/
theorem step_of_start {i : Instr} {level : Nat} {c : Word} {s : State} {rest : List Turn}
    (hlevel : startLevel i = some level) (hc : encode i = .cmd c) (hready : s.ph = .idle ∨ s.ph = .done)
    (hfull : s.hcnt.toNat = 80) (hlow : 1 ≤ level) (hhigh : level ≤ 7) (hturns : s.turns = .host (.write 0 4 c) :: rest) :
    step s = .next (startRun level c { s with turns := rest }) := by
  rw [step_of_command hturns, dispatchWord_start (s := { s with turns := rest }) hlevel hc hready,
    startSequence_accepted (s := { s with turns := rest }) hfull hlow hhigh]

theorem startRun_rootlvl_toNat {level : Nat} (hhigh : level ≤ 7) (c : Word) (s : State) :
    (startRun level c s).rootlvl.toNat = level :=
  Nat.mod_eq_of_lt (by omega)

/-- The root's header is the whole of HDR. -/
theorem nodeHeader_startRun (level : Nat) (c : Word) (s : State) : nodeHeader (startRun level c s) = s.hdr :=
  nodeHeader_root rfl (by rw [frameAt_startRun, if_pos rfl]; rfl)

/-! The run after the start, undisturbed -/

/-- One step before the run's step count the root is in T_RET with the tree hash in RET. -/
theorem startRun_reaches_tRet {s : State} (hturns : s.turns = []) {level : Nat} (hlow : 1 ≤ level) (hhigh : level ≤ 7)
    (c : Word) :
    ∃ t, NodeRun (treeSteps Config.units (level - 1) s.hdr - 1) (2 ^ level - 1) (startRun level c s) t ∧ t.ph = .tRet
      ∧ t.dp.ret = treeHashAt Config.units (level - 1) s.hdr := by
  have hroot : (startRun level c s).rootlvl.toNat = (startRun level c s).sp.val + (level - 1) + 1 := by
    rw [startRun_rootlvl_toNat hhigh]
    change level = 0 + (level - 1) + 1
    omega
  obtain ⟨t, hrun, hp, hret, -⟩ := nodeReturns (level - 1) (startRun level c s) rfl hturns hroot
  rw [nodeHeader_startRun] at hrun hret
  rw [Nat.sub_add_cancel hlow] at hrun
  exact ⟨t, hrun, hp, hret⟩

/-- Before its step count the run is under way. -/
theorem startRun_early {s : State} (hturns : s.turns = []) {level n : Nat} (hlow : 1 ≤ level) (hhigh : level ≤ 7)
    (c : Word) (hn : n < treeSteps Config.units (level - 1) s.hdr) :
    ∃ u, runSteps n (startRun level c s) = .next u ∧ busyFlag u = true ∧ SameRun (startRun level c s) u := by
  obtain ⟨t, hrun, hp, -⟩ := startRun_reaches_tRet hturns hlow hhigh c
  have hsplit : treeSteps Config.units (level - 1) s.hdr - 1 = n + (treeSteps Config.units (level - 1) s.hdr - 1 - n) := by
    omega
  exact runSteps_busy_prefix hturns (hsplit ▸ hrun.run) (busyFlag_of_busyPhase hp rfl)

/-- From its step count on the run is finished. -/
theorem startRun_late {s : State} (hturns : s.turns = []) {level n : Nat} (hlow : 1 ≤ level) (hhigh : level ≤ 7)
    (c : Word) (hn : treeSteps Config.units (level - 1) s.hdr ≤ n) :
    ∃ t, runSteps n (startRun level c s) = .next (finishRun t) ∧ SameRun (startRun level c s) t ∧ t.sp = 0
      ∧ t.dp.ret = treeHashAt Config.units (level - 1) s.hdr ∧ t.leafcnt = BitVec.ofNat 32 (2 ^ level - 1) := by
  obtain ⟨t, hrun, hp, hret⟩ := startRun_reaches_tRet hturns hlow hhigh c
  have htturns := hrun.turns (s := startRun level c s) hturns
  have hlast := (step_tRet htturns hp).trans (treeReturn_root (by rw [hrun.sp]; rfl))
  have hpos := treeSteps_pos Config.units (level - 1) s.hdr
  have hsplit : n = treeSteps Config.units (level - 1) s.hdr - 1 + 1 + (n - treeSteps Config.units (level - 1) s.hdr) := by
    omega
  refine ⟨t, ?_, hrun.same, hrun.sp, hret, hrun.leafcnt.trans (BitVec.zero_add _)⟩
  rw [hsplit]
  exact runSteps_trans (runSteps_trans hrun.run (runSteps_one hlast)) (runSteps_of_not_busy (s := finishRun t) htturns rfl _)

/-- LEAFCNT of a complete run fits its register (R276). -/
theorem completeCount_toNat {level : Nat} (hhigh : level ≤ 7) :
    (BitVec.ofNat 32 (2 ^ level - 1)).toNat = 2 ^ level - 1 := by
  have hpow : 2 ^ level ≤ 2 ^ 7 := Nat.pow_le_pow_right (by decide) hhigh
  exact Nat.mod_eq_of_lt (by omega)

/-- Settles O53: the first turn starts the run, `runSteps_quiet` takes the host's turns out of it, and the undisturbed run is
under way before its step count and finished from then on. -/
theorem runDeliversTreeHash : Obligations.RunDeliversTreeHash := by
  intro s i c level ts hlevel hc hlow hhigh hready hfull hturns hquiet
  have hstart : step s = .next (setHost ts s.ien s.rdata (startRun level c { s with turns := [] })) :=
    step_of_start hlevel hc hready (by rw [hfull]; rfl) hlow hhigh hturns
  have hroot := startRun_rootlvl_toNat hhigh c { s with turns := [] }
  have hlast := opcField_start hlevel hc
  rw [← treeSteps_eq, Nat.add_comm 1]
  rcases Nat.lt_or_ge (ts.count .seq) (treeSteps Config.units (level - 1) s.hdr) with hearly | hlate
  · obtain ⟨u, hrun, hbusy, hsame⟩ := startRun_early (s := { s with turns := [] }) rfl hlow hhigh c hearly
    obtain ⟨ien, rd, hquietRun⟩ := runSteps_quiet hquiet s.ien s.rdata rfl hrun
    exact ⟨_, (runSteps_succ hstart).trans hquietRun, rfl, hsame.hdr, hsame.hcnt, by rw [← hroot, ← hsame.rootlvl]; rfl,
      hsame.lastop.trans hlast, hsame.errcode, hsame.errinfo, fun _ => ⟨hbusy, hsame.res⟩,
      fun hle => absurd hearly (Nat.not_lt.mpr hle)⟩
  · obtain ⟨t, hrun, hsame, hsp, hret, hcount⟩ := startRun_late (s := { s with turns := [] }) rfl hlow hhigh c hlate
    obtain ⟨ien, rd, hquietRun⟩ := runSteps_quiet hquiet s.ien s.rdata rfl hrun
    refine ⟨_, (runSteps_succ hstart).trans hquietRun, rfl, hsame.hdr, hsame.hcnt, by rw [← hroot, ← hsame.rootlvl]; rfl,
      hsame.lastop.trans hlast, hsame.errcode, hsame.errinfo, fun hlt => absurd hlt (Nat.not_lt.mpr hlate),
      fun _ => ⟨rfl, hsp, ?result, ?count⟩⟩
    case result => exact (congrArg some hret).trans (treeHash_of_level _ _ hlow hhigh).symm
    case count => exact (congrArg BitVec.toNat hcount).trans (completeCount_toNat hhigh)

end Sys2Proof.Machine

/-! The digest combiner's micro-operations C_CAT, C_R1 and C_R2 (spec/42_combiner.md R180 to R182). -/

namespace Sys2Proof.Machine

theorem exec_cCat (s : State) : exec .cCat s = .next (combineCat s) := rfl
theorem exec_cR1 (s : State) : exec .cR1 s = .next (combineFirst Config.units s) := rfl
theorem exec_cR2 (s : State) : exec .cR2 s = .next (combineSecond Config.units s) := rfl

/-- The order of the concatenation (R185), byte by byte. -/
theorem concat3_toList (self left right : Digest) :
    (concat3 self left right).toList = self.toList ++ left.toList ++ right.toList := by
  change (self ++ left ++ right).toList = _
  rw [Vector.toList_append, Vector.toList_append]

/-- Settles O28: CB holds the current frame's three digests in the order `concat3_toList` gives. -/
theorem cCatConcatenates : Obligations.CCatConcatenates :=
  ⟨rfl, fun s => ⟨combineCat s, exec_cCat s, rfl, concat3_toList _ _ _,
    fun hp => flags_eq_of_busy (busyFlag_of_busyPhase hp rfl) rfl⟩⟩

/-- Settles O29: the message is all of CB, whose length its type gives. -/
theorem cR1CompressesBuffer : Obligations.CR1CompressesBuffer :=
  ⟨rfl, fun s => ⟨combineFirst Config.units s, exec_cR1 s, rfl, rfl, Vector.length_toList,
    fun hp => flags_eq_of_busy (busyFlag_of_busyPhase hp rfl) rfl⟩⟩

/-- Settles O30: the message is all of T32 and nothing of CB. -/
theorem cR2CompressesDigest : Obligations.CR2CompressesDigest :=
  ⟨rfl, fun s => ⟨combineSecond Config.units s, exec_cR2 s, rfl, rfl, Vector.length_toList,
    fun hp => flags_eq_of_busy (busyFlag_of_busyPhase hp rfl) rfl⟩⟩

end Sys2Proof.Machine

/-! The host commands (spec/43_host_commands.md R200 to R209): the gate of the dispatch, the start sequence, and each command's
own effect. -/

namespace Sys2Proof.Machine

/-! Command words and what they decode to (R90, R91, R93) -/

theorem commandWord_eq_ofNat (opc arg : Byte) : commandWord opc arg = BitVec.ofNat 32 (256 * arg.toNat + opc.toNat) := by
  rw [← commandWord_toNat, BitVec.ofNat_toNat, BitVec.setWidth_eq]

theorem opcField_toNat (c : Word) : (opcField c).toNat = c.toNat % 256 := by
  simp [opcField]

/-- A word with RSV zero is the command word of its two other fields. -/
theorem eq_commandWord {c : Word} {opc arg : Byte} (hrsv : rsvField c = 0) (hopc : (opcField c).toNat = opc.toNat)
    (harg : argField c = arg) : c = commandWord opc arg := by
  apply BitVec.eq_of_toNat_eq
  have hc := c.isLt
  have hrsv' := congrArg BitVec.toNat hrsv
  have harg' := congrArg BitVec.toNat harg
  simp only [rsvField, argField, opcField, BitVec.extractLsb'_toNat, Nat.shiftRight_eq_div_pow, BitVec.ofNat_eq_ofNat,
    BitVec.toNat_ofNat] at hrsv' harg' hopc
  rw [commandWord_toNat]
  omega

theorem arg_eq_zero_of_plainCommand {arg : Byte} {i j : Instr} (h : plainCommand arg i = .instr j) : arg = 0 := by
  by_contra harg
  rw [plainCommand_of_ne_zero harg] at h
  cases h

/-- The one word of a command without an argument: its opcode with ARG and RSV zero. -/
theorem encode_of_plainCommand {c : Word} (opc : Byte) {i j : Instr} (hj : encode j = .cmd (commandWord opc 0))
    (hrsv : rsvField c = 0) (hopc : (opcField c).toNat = opc.toNat) (h : plainCommand (argField c) j = .instr i) :
    encode i = .cmd c := by
  rw [plainCommand_eq_instr h, hj, eq_commandWord hrsv hopc (arg_eq_zero_of_plainCommand h)]

/-- A word that decodes to a command is that command's one encoding: no bit of it is ignored (R91, R93). -/
theorem encode_of_decode_cmd {c : Word} {i : Instr} (h : decode (.cmd c) = .instr i) : encode i = .cmd c := by
  rw [decode, decodeCommand] at h
  split at h
  case isTrue => cases h
  case isFalse hset =>
    have hrsv := not_not.mp hset
    split at h
    case h_1 hopc => exact encode_of_plainCommand 0x00 rfl hrsv hopc h
    case h_2 hopc => exact encode_of_plainCommand 0x01 rfl hrsv hopc h
    case h_3 hopc =>
      rw [← Decoded.instr.inj h]
      exact congrArg CodeWord.cmd (eq_commandWord (opc := 0x02) hrsv hopc rfl).symm
    case h_4 hopc => exact encode_of_plainCommand 0x10 rfl hrsv hopc h
    case h_5 hopc =>
      rw [← Decoded.instr.inj h]
      exact congrArg CodeWord.cmd (eq_commandWord (opc := 0x11) hrsv hopc rfl).symm
    case h_6 hopc => exact encode_of_plainCommand 0x12 rfl hrsv hopc h
    case h_7 hopc => exact encode_of_plainCommand 0x20 rfl hrsv hopc h
    case h_8 hopc => exact encode_of_plainCommand 0x7F rfl hrsv hopc h
    case h_9 => cases h

theorem decode_ack (arg : Byte) : decode (.cmd (commandWord 0x20 arg)) = plainCommand arg .ack := by
  simp [decode, decodeCommand]

theorem decode_srst (arg : Byte) : decode (.cmd (commandWord 0x7F arg)) = plainCommand arg .srst := by
  simp [decode, decodeCommand]

/-! The meaning of each command through the shared operations (R200 to R209) -/

theorem exec_nop (s : State) : exec .nop s = .next s := rfl
theorem exec_hclr (s : State) : exec .hclr s = .next (gateCommand (commandWord 0x01 0) clearCounter s) := rfl
theorem exec_hpush (b : Byte) (s : State) :
    exec (.hpush b) s = .next (gateCommand (commandWord 0x02 b) (pushByte b) s) := rfl
theorem exec_ack (s : State) : exec .ack s = .next (acknowledge (commandWord 0x20 0) s) := rfl

/-- LEAF, TREE and POW are one start sequence behind the gate, each with its level and its word. -/
theorem exec_start {i : Instr} {level : Nat} {c : Word} (hlevel : startLevel i = some level) (hc : encode i = .cmd c)
    (s : State) : exec i s = .next (gateCommand c (startSequence level c) s) := by
  cases i <;> cases hlevel <;> cases hc <;> rfl

theorem exec_start_of_ready {i : Instr} {level : Nat} {c : Word} {s : State} (hlevel : startLevel i = some level)
    (hc : encode i = .cmd c) (hready : s.ph = .idle ∨ s.ph = .done) : exec i s = .next (startSequence level c s) := by
  rw [exec_start hlevel hc, gateCommand_ready hready]

/-- E_LEN is checked before the level (R209). -/
theorem startSequence_of_bad_length {s : State} (hlen : s.hcnt.toNat ≠ 80) (level : Nat) (c : Word) :
    startSequence level c s = raiseError .eLen c s := if_pos hlen

/-! ACK by phase (R206) -/

theorem acknowledge_err {s : State} (h : s.ph = .err) (c : Word) : acknowledge c s = returnFromError s := if_pos h

theorem acknowledge_busy {s : State} (h : busyFlag s = true) (c : Word) : acknowledge c s = raiseError .eBusy c s :=
  (if_neg (ph_ne_of_busyFlag h).2.2).trans (if_pos h)

theorem acknowledge_done {s : State} (h : s.ph = .done) (c : Word) : acknowledge c s = { s with ph := .idle } := by
  simp [acknowledge, busyFlag, isBusyPhase, Phase.code, h]

theorem acknowledge_idle {s : State} (h : s.ph = .idle) (c : Word) : acknowledge c s = s := by
  simp [acknowledge, busyFlag, isBusyPhase, Phase.code, h]

/-- ACK ends in IDLE from both phases that hold a flag. -/
theorem acknowledge_ph {s : State} (h : s.ph = .err ∨ s.ph = .done) (c : Word) : (acknowledge c s).ph = .idle := by
  rcases h with herr | hdone
  · rw [acknowledge_err herr, returnFromError_ph]
  · rw [acknowledge_done hdone]

/-- In IDLE no flag of a finished run or an error is up, so the interrupt line is down (R268). -/
theorem flags_of_idle {s : State} (h : s.ph = .idle) : errFlag s = false ∧ doneFlag s = false ∧ irqLine s = false := by
  simp [irqLine, errFlag, doneFlag, h]

/-! The dispatch (R208) -/

theorem dispatchWord_of_instr {c : Word} {i : Instr} (h : decode (.cmd c) = .instr i) (s : State) :
    dispatchWord c s = exec i s := by
  rw [dispatchWord, h]

theorem dispatchWord_of_reject {c : Word} {r : Reject} (h : decode (.cmd c) = .reject r) (s : State) :
    dispatchWord c s = .next (illegalCommand c s) := by
  rw [dispatchWord, h]

/-- NOP, ACK and SRST have rules of their own; every other command passes the gate of R208 under its own word. -/
theorem exec_command_cases {c : Word} {i : Instr} (hc : encode i = .cmd c) (s : State) :
    (c = 0x00000000 ∧ exec i s = .next s)
    ∨ (c = 0x00000020 ∧ exec i s = .next (acknowledge c s))
    ∨ (c = 0x0000007F ∧ exec i s = .next (resetBlock s))
    ∨ ∃ own, exec i s = .next (gateCommand c own s) := by
  cases i <;> cases hc
  case nop => exact .inl ⟨rfl, rfl⟩
  case ack => exact .inr (.inl ⟨rfl, rfl⟩)
  case srst => exact .inr (.inr (.inl ⟨rfl, rfl⟩))
  all_goals exact .inr (.inr (.inr ⟨_, rfl⟩))

/-- Everything the dispatch can do with a word, legal or ILLEGAL. -/
theorem dispatchWord_cases (c : Word) (s : State) :
    (c = 0x00000000 ∧ dispatchWord c s = .next s)
    ∨ (c = 0x00000020 ∧ dispatchWord c s = .next (acknowledge c s))
    ∨ (c = 0x0000007F ∧ dispatchWord c s = .next (resetBlock s))
    ∨ ∃ own, dispatchWord c s = .next (gateCommand c own s) := by
  cases hdec : decode (.cmd c) with
  | reject r => exact .inr (.inr (.inr ⟨_, dispatchWord_of_reject hdec s⟩))
  | instr i =>
    rw [dispatchWord_of_instr hdec]
    exact exec_command_cases (encode_of_decode_cmd hdec) s

/-- Line 3 of R208: in ERR everything but ACK and SRST leaves the state as it is. -/
theorem dispatchWord_err {c : Word} {s : State} (herr : s.ph = .err) (hack : c ≠ 0x00000020) (hsrst : c ≠ 0x0000007F) :
    dispatchWord c s = .next s := by
  rcases dispatchWord_cases c s with ⟨-, hd⟩ | ⟨h, -⟩ | ⟨h, -⟩ | ⟨own, hd⟩
  · exact hd
  · exact absurd h hack
  · exact absurd h hsrst
  · rw [hd, gateCommand_err herr]

/-- Line 4 of R208: during a run everything but NOP and SRST raises E_BUSY, which records that word. -/
theorem dispatchWord_busy {c : Word} {s : State} (hbusy : busyFlag s = true) (hnop : c ≠ 0x00000000)
    (hsrst : c ≠ 0x0000007F) : dispatchWord c s = .next (raiseError .eBusy c s) := by
  rcases dispatchWord_cases c s with ⟨h, -⟩ | ⟨-, hd⟩ | ⟨h, -⟩ | ⟨own, hd⟩
  · exact absurd h hnop
  · rw [hd, acknowledge_busy hbusy]
  · exact absurd h hsrst
  · rw [hd, gateCommand_busy hbusy]

/-- Line 5 of R208. -/
theorem dispatchWord_illegal {c : Word} {s : State} (hready : s.ph = .idle ∨ s.ph = .done)
    (hdec : decode (.cmd c) = .reject .illegal) : dispatchWord c s = .next (raiseError .eCmd c s) := by
  rw [dispatchWord_of_reject hdec, illegalCommand, gateCommand_ready hready]

/-- Settles O11: SRST, NOP and ACK by what their words decode to, the other lines by the gate. -/
theorem dispatchOrder : Obligations.DispatchOrder := by
  intro c s
  refine ⟨?srst, ?nop, fun hsrst hnop => ⟨?ack, fun herr hack => dispatchWord_err herr hack hsrst,
    fun hbusy => dispatchWord_busy hbusy hnop hsrst,
    fun hready => ⟨dispatchWord_illegal hready, fun i hdec => dispatchWord_of_instr hdec s⟩⟩⟩
  case srst =>
    rintro rfl
    exact dispatchWord_of_instr ((decode_srst 0).trans (plainCommand_zero .srst)) s
  case nop =>
    rintro rfl
    exact dispatchWord_zero s
  case ack =>
    rintro - rfl
    exact dispatchWord_of_instr ((decode_ack 0).trans (plainCommand_zero .ack)) s

/-! The effects of the single commands -/

/-- HPUSH stores at HDR[HCNT], if that is a byte of the header, and keeps every other byte (R202). -/
theorem pushByte_hdr_getElem (b : Byte) (s : State) {j : Nat} (hj : j < 80) :
    (pushByte b s).hdr[j] = if j = s.hcnt.toNat then b else s.hdr[j] := by
  simp only [pushByte_hdr]
  by_cases h : s.hcnt.toNat < 80
  · simp [h, Vector.getElem_set, eq_comm]
  · have hne : j ≠ s.hcnt.toNat := by omega
    simp [h, hne]

theorem pushByte_hcnt_toNat (b : Byte) (s : State) : (pushByte b s).hcnt.toNat = min (s.hcnt.toNat + 1) 255 :=
  Nat.mod_eq_of_lt (by omega)

/-- The root's nonce after a start is HDR[76..79], little-endian (R209). -/
theorem startRun_root_nonce (level : Nat) (c : Word) (s : State) :
    (frameAt (startRun level c s) 0).nonce.toNat = leNat s.hdr[76] s.hdr[77] s.hdr[78] s.hdr[79] := by
  rw [frameAt_startRun, if_pos rfl]
  exact le32dec_slice_toNat s.hdr 76 _

/-- Settles O7: behind the open gate a start is the start sequence, whose three outcomes are the three clauses. -/
theorem startSequenceStartsRun : Obligations.StartSequenceStartsRun := by
  intro i level c s hlevel hc hready
  rw [exec_start_of_ready hlevel hc hready]
  refine ⟨fun hfull hlow hhigh => ⟨startRun level c s, ?accepted, rfl, rfl, rfl, startRun_rootlvl_toNat hhigh c s, rfl,
    opcField_toNat c, opcField_start hlevel hc, ?res, ?root, startRun_root_nonce level c s, ?frames, rfl, rfl⟩, ?len, ?level⟩
  case accepted => rw [startSequence_accepted hfull hlow hhigh]
  case res => exact fun j => Vector.getElem_replicate j.isLt
  case root => rw [frameAt_startRun, if_pos rfl]
  case frames =>
    intro d hd
    rw [frameAt_startRun, if_neg hd]
  case len =>
    intro hlen
    rw [startSequence_of_bad_length hlen]
    rfl
  case level =>
    intro hfull hbad
    rw [startSequence_of_bad_level hfull hbad]
    rfl

/-- Settles O4: NOP passes no gate. -/
theorem nopChangesNothing : Obligations.NopChangesNothing :=
  ⟨rfl, (decode_nop 1).trans (plainCommand_of_ne_zero (by decide) .nop), exec_nop⟩

/-- Settles O5, by the gate's three answers; after it HCNT is 0, so a start fails its length check. -/
theorem hclrClearsCounter : Obligations.HclrClearsCounter := by
  refine ⟨rfl, fun s => ?_⟩
  rw [exec_hclr]
  refine ⟨fun hready => ⟨clearCounter s, ?cleared, rfl, rfl, rfl, fun i level c hlevel hc => ?start⟩, fun hbusy => ?busy,
    fun herr => ?err⟩
  case cleared => rw [gateCommand_ready hready]
  case start =>
    have hempty : (clearCounter s).hcnt.toNat ≠ 80 := by simp
    rw [exec_start_of_ready (s := clearCounter s) hlevel hc hready, startSequence_of_bad_length hempty]
    rfl
  case busy => rw [gateCommand_busy hbusy]; rfl
  case err => rw [gateCommand_err herr]

/-- Settles O6, by the gate's three answers. -/
theorem hpushAppendsByte : Obligations.HpushAppendsByte := by
  intro b s
  have hword : commandWord 0x02 b = BitVec.ofNat 32 (256 * b.toNat + 2) := commandWord_eq_ofNat 0x02 b
  rw [exec_hpush, ← hword]
  refine ⟨rfl, fun hready => ⟨pushByte b s, ?pushed, rfl, pushByte_hcnt_toNat b s, fun j => pushByte_hdr_getElem b s j.isLt,
    ?hrdy⟩, fun hbusy => ?busy, fun herr => ?err⟩
  case pushed => rw [gateCommand_ready hready]
  case hrdy => rw [hrdyFlag_eq_decide, decide_eq_true_iff]
  case busy => rw [gateCommand_busy hbusy]; rfl
  case err => rw [gateCommand_err herr]

/-- Settles O8, by the phase; the flags fall because both ERR and DONE are left for IDLE. -/
theorem ackLeavesDoneAndErr : Obligations.AckLeavesDoneAndErr := by
  refine ⟨rfl, fun s => ?_⟩
  rw [exec_ack]
  refine ⟨fun herr => ?err, fun hdone => ?done, fun hidle => ?idle, fun hbusy => ?busy, fun t hleft hnext => ?flags⟩
  case err => rw [acknowledge_err herr]; rfl
  case done => rw [acknowledge_done hdone]
  case idle => rw [acknowledge_idle hidle]
  case busy => rw [acknowledge_busy hbusy]; rfl
  case flags =>
    obtain rfl := Host.Outcome.next.inj hnext
    exact flags_of_idle (acknowledge_ph hleft _)

end Sys2Proof.Machine

/-! The external units (spec/44_external_units.md): the little-endian helpers (R234, R235). -/

namespace Sys2Proof.Machine

/-- Settles O47: the sum of R234, the digits of R235, and the two round trips. -/
theorem littleEndianHelpers : Obligations.LittleEndianHelpers :=
  ⟨le32dec_toNat, fun v i => le32enc_getElem_toNat v i.val i.isLt, le32dec_le32enc, le32enc_le32dec⟩

end Sys2Proof.Machine

/-! Errors (spec/60_exceptions.md): only a word written to CMD raises one, a run it hits is lost, and the record of the first
one is kept until ACK or a reset (R260, R264, R270, R273). -/

namespace Sys2Proof.Machine

theorem not_busyFlag_of_err {s : State} (h : s.ph = .err) : busyFlag s = false := by
  simp [busyFlag, h, isBusyPhase, Phase.code]

/-! The error entry (R260, R270) -/

/-- `t` is the error entry of `s` for the word `c`, with one of the four codes the dispatch raises (R270). -/
inductive ErrorEntry (c : Word) (s : State) : State → Prop
  | raised (e : ErrCode) (he : e = .eLen ∨ e = .eLevel ∨ e = .eBusy ∨ e = .eCmd) : ErrorEntry c s (raiseError e c s)

/-- R209: a start sequence that does not start a run is an error entry. -/
theorem ErrorEntry.of_startSequence {level : Nat} {c : Word} {s : State} (herr : (startSequence level c s).ph = .err) :
    ErrorEntry c s (startSequence level c s) := by
  rcases startSequence_cases level c s with ⟨-, hs⟩ | ⟨-, -, hs⟩ | ⟨-, -, -, hs⟩ <;> rw [hs] at herr ⊢
  · exact .raised .eLen (by simp)
  · exact .raised .eLevel (by simp)
  · cases herr

section
variable {s : State} (hs : s.ph ≠ .err)
include hs

/-- The gate of R208 enters ERR by E_BUSY or by the command's own error. -/
theorem ErrorEntry.of_gate {c : Word} {own : State → State} (hown : (own s).ph = .err → ErrorEntry c s (own s))
    (herr : (gateCommand c own s).ph = .err) : ErrorEntry c s (gateCommand c own s) := by
  rcases gateCommand_cases c own s with ⟨h, -⟩ | ⟨-, hg⟩ | ⟨-, hg⟩
  · exact absurd h hs
  · rw [hg]
    exact .raised .eBusy (by simp)
  · rw [hg] at herr ⊢
    exact hown herr

/-- ACK outside ERR enters it only while busy (R206). -/
theorem ErrorEntry.of_acknowledge {c : Word} (herr : (acknowledge c s).ph = .err) : ErrorEntry c s (acknowledge c s) := by
  rcases acknowledge_cases c s with ⟨h, -⟩ | ⟨-, ha⟩ | ⟨-, ha⟩ | ⟨-, ha⟩
  · exact absurd h hs
  · rw [ha]
    exact .raised .eBusy (by simp)
  · rw [ha] at herr
    cases herr
  · rw [ha] at herr
    exact absurd herr hs

/-- A host command that leads to ERR is an error entry with its own word. -/
theorem exec_command_errorEntry {c : Word} {i : Instr} {t : State} (hc : encode i = .cmd c) (h : exec i s = .next t)
    (herr : t.ph = .err) : ErrorEntry c s t := by
  cases i <;> cases hc <;> cases h
  case nop => exact absurd herr hs
  case hclr | hpush => exact .of_gate hs (fun hown => absurd hown hs) herr
  case leaf | tree | pow => exact .of_gate hs .of_startSequence herr
  case ack => exact .of_acknowledge hs herr
  case srst => cases herr

/-- Every entry into ERR by the dispatch, legal words and ILLEGAL ones. -/
theorem dispatchWord_errorEntry {c : Word} {t : State} (h : dispatchWord c s = .next t) (herr : t.ph = .err) :
    ErrorEntry c s t := by
  cases hdec : decode (.cmd c) with
  | reject r =>
    rw [dispatchWord_of_reject hdec] at h
    obtain rfl := Host.Outcome.next.inj h
    exact .of_gate hs (fun _ => .raised .eCmd (by simp)) herr
  | instr i =>
    rw [dispatchWord_of_instr hdec] at h
    exact exec_command_errorEntry hs (encode_of_decode_cmd hdec) h herr

/-- No micro-operation raises an error: the sequencer ends a run in DONE, or goes on with it (R260). -/
theorem sequencerTurn_ph_ne_err {t : State} (h : sequencerTurn s = .next t) : t.ph ≠ .err := by
  cases hb : busyFlag s with
  | true =>
    rcases sequencerTurn_finishes_or_busy hb h with ⟨-, -, rfl⟩ | ht
    · exact Phase.noConfusion
    · exact (ph_ne_of_busyFlag ht).2.2
  | false =>
    rw [sequencerTurn_of_not_busy hb] at h
    exact Host.Outcome.next.inj h ▸ hs

/-- Of the host's accesses only a write to CMD enters ERR (R260). -/
theorem hostAccess_errorEntry {a : Access} {t : State} (h : hostAccess a s = .next t) (herr : t.ph = .err) :
    ∃ c, a = .write 0 4 c ∧ ErrorEntry c s t := by
  rcases hostAccess_cases a s with ⟨-, ha⟩ | ⟨off, len, -, -, ha⟩ | ⟨off, len, v, rfl, hwf, ha⟩ <;> rw [ha] at h
  · cases h
  · obtain rfl := Host.Outcome.next.inj h
    exact absurd herr hs
  · rcases memWrite_cases off v s with ⟨rfl, hw⟩ | ⟨-, hw⟩ | ⟨-, -, hw⟩ <;> rw [hw] at h
    · obtain rfl : len = 4 := by simpa [Access.wellFormed, wordShape] using hwf
      exact ⟨v, rfl, dispatchWord_errorEntry hs h herr⟩
    · obtain rfl := Host.Outcome.next.inj h
      exact absurd herr hs
    · obtain rfl := Host.Outcome.next.inj h
      exact absurd herr hs

/-- A step into ERR takes a host's write to CMD and is the error entry for its word (R260, R270). -/
theorem step_errorEntry {t : State} (h : step s = .next t) (herr : t.ph = .err) :
    ∃ c rest, s.turns = .host (.write 0 4 c) :: rest ∧ ErrorEntry c { s with turns := rest } t := by
  rcases step_cases s with ⟨-, hstep⟩ | ⟨a, rest, hturns, hstep⟩ | ⟨rest, -, hstep⟩ | ⟨rest, -, hstep⟩ | ⟨rest, -, -, hstep⟩
    | ⟨rest, -, -, hstep⟩ <;> rw [hstep] at h
  · exact absurd herr (sequencerTurn_ph_ne_err hs h)
  · obtain ⟨c, rfl, hentry⟩ := hostAccess_errorEntry (s := { s with turns := rest }) hs h herr
    exact ⟨c, rest, hturns, hentry⟩
  · obtain rfl := Host.Outcome.next.inj h
    cases herr
  · exact absurd herr (sequencerTurn_ph_ne_err (s := { s with turns := rest }) hs h)
  · exact absurd herr (sequencerTurn_ph_ne_err hs h)
  · obtain rfl := Host.Outcome.next.inj h
    exact absurd herr hs

end

/-- In ERR the interrupt line follows IEN[1] (R268). -/
theorem irqLine_of_err {s : State} (h : s.ph = .err) : irqLine s = s.ien.getLsbD 1 := by
  simp [irqLine, doneFlag, errFlag, h]

/-- Settles O13: a step into ERR is an error entry, which writes the record and PH and nothing else. -/
theorem errorsArePrecise : Obligations.ErrorsArePrecise := by
  intro s t hstep hs herr
  obtain ⟨c, rest, hturns, ⟨e, he⟩⟩ := step_errorEntry hs hstep herr
  exact ⟨c, rest, hturns, rfl, he, rfl, rfl, rfl, fun hien => (irqLine_of_err herr).trans hien⟩

/-! A run lost to a command (R264) -/

/-- Settles O12: the dispatch raises E_BUSY, which keeps the RES that R31 holds at zero and leaves a phase without a
micro-operation. -/
theorem commandWhileBusyLosesRun : Obligations.CommandWhileBusyLosesRun := by
  intro c s hinv hbusy hsrst hnop
  obtain ⟨-, -, -, -, -, -, -, -, hres, -⟩ := hinv hbusy
  refine ⟨raiseError .eBusy c s, dispatchWord_busy hbusy hnop hsrst, rfl, rfl, fun j => ?res,
    sequencerTurn_of_not_busy (not_busyFlag_of_err rfl)⟩
  case res =>
    rw [raiseError_res, hres]
    exact Vector.getElem_replicate j.isLt

/-! The first error's record (R273) -/

theorem wellFormed_of_keepsError {a : Access} (h : keepsError (.host a) = true) : a.wellFormed = true := by
  cases a with
  | read off len => exact h
  | write off len v => exact (Bool.and_eq_true_iff.mp h).1

/-- The words the host may write to CMD without leaving ERR. -/
theorem ne_ack_srst_of_keepsError {len : Nat} {v : Word} (h : keepsError (.host (.write 0 len v)) = true) :
    v ≠ 0x00000020 ∧ v ≠ 0x0000007F := by
  simpa using (Bool.and_eq_true_iff.mp h).2

/-- In ERR an access that is no ACK and no SRST changes at most IEN and the read word. -/
theorem hostAccess_err {a : Access} {s : State} (herr : s.ph = .err) (hkeep : keepsError (.host a) = true) :
    ∃ ien rd, hostAccess a s = .next (setHost s.turns ien rd s) := by
  rcases hostAccess_cases a s with ⟨hwf, -⟩ | ⟨off, len, -, -, ha⟩ | ⟨off, len, v, rfl, -, ha⟩
  · exact absurd (wellFormed_of_keepsError hkeep) (Bool.eq_false_iff.mp hwf)
  · exact ⟨_, _, ha⟩
  · rcases memWrite_cases off v s with ⟨rfl, hw⟩ | ⟨-, hw⟩ | ⟨-, -, hw⟩
    · obtain ⟨hack, hsrst⟩ := ne_ack_srst_of_keepsError hkeep
      exact ⟨s.ien, s.rdata, (ha.trans hw).trans (dispatchWord_err herr hack hsrst)⟩
    · exact ⟨_, _, ha.trans hw⟩
    · exact ⟨_, _, ha.trans hw⟩

/-- In ERR a turn that does not leave it changes at most IEN and the model's own fields. -/
theorem takeTurn_err {t : Turn} {s : State} (herr : s.ph = .err) (hkeep : keepsError t = true) (rest : List Turn) :
    ∃ ien rd, takeTurn t rest s = .next (setHost rest ien rd s) := by
  cases t with
  | host a => exact hostAccess_err (s := { s with turns := rest }) herr hkeep
  | hardReset => cases hkeep
  | seq => exact ⟨s.ien, s.rdata, sequencerTurn_of_not_busy (s := { s with turns := rest }) (not_busyFlag_of_err herr)⟩
  | wait => exact ⟨s.ien, some (statusWord s), if_neg (Bool.eq_false_iff.mp (not_busyFlag_of_err herr))⟩

/-- Any number of such turns together change no more than one of them may. -/
theorem runSteps_err {ts rest : List Turn} {s : State} (herr : s.ph = .err) (hturns : s.turns = ts ++ rest)
    (hkeep : ∀ t ∈ ts, keepsError t = true) : ∃ ien rd, runSteps ts.length s = .next (setHost rest ien rd s) := by
  induction ts generalizing s with
  | nil =>
    obtain rfl : s.turns = rest := hturns
    exact ⟨s.ien, s.rdata, rfl⟩
  | cons t ts ih =>
    obtain ⟨ht, hts⟩ := List.forall_mem_cons.mp hkeep
    obtain ⟨ien₁, rd₁, htake⟩ := takeTurn_err herr ht (ts ++ rest)
    obtain ⟨ien, rd, hrun⟩ := ih (s := setHost (ts ++ rest) ien₁ rd₁ s) herr rfl hts
    exact ⟨ien, rd, (runSteps_succ ((step_of_turn hturns).trans htake)).trans hrun⟩

/-- Settles O14: neither the record nor PH is among the fields such turns change. -/
theorem firstErrorIsKept : Obligations.FirstErrorIsKept := by
  intro ts rest s herr hturns hkeep
  obtain ⟨ien, rd, hrun⟩ := runSteps_err herr hturns hkeep
  exact ⟨setHost rest ien rd s, hrun, rfl⟩

end Sys2Proof.Machine

/-! The two resets (spec/70_reset_and_hazards.md R301): SRST and the hard reset are the one operation `resetBlock`. -/

namespace Sys2Proof.Machine

theorem exec_srst (s : State) : exec .srst s = .next (resetBlock s) := rfl

/-- The hard reset is taken in its turn, from any phase. -/
theorem step_of_hardReset {s : State} {rest : List Turn} (h : s.turns = .hardReset :: rest) :
    step s = .next (resetBlock { s with turns := rest }) := step_of_turn h

/-- Apart from the model's queue and read word, the host sees the block of R40 after a reset. -/
theorem hostView_resetBlock (s : State) :
    hostView (resetBlock s) = { hostView State.reset with turns := s.turns, rdata := s.rdata } := rfl

/-- Every field of STATUS is zero at the reset values of PH, SP, ROOTLVL, LASTOP and HCNT (R32, R40). -/
theorem statusWord_resetBlock (s : State) : statusWord (resetBlock s) = 0 := by
  obtain ⟨herr, hdone, -⟩ := flags_of_idle (resetBlock_ph s)
  simp [statusWord, herr, hdone, busyFlag, isBusyPhase, hrdyFlag, HEADER_LEN, spBits, Phase.code]

theorem irqLine_resetBlock (s : State) : irqLine (resetBlock s) = false := by
  obtain ⟨-, -, hirq⟩ := flags_of_idle (resetBlock_ph s)
  exact hirq

/-- Settles O9: both sources perform `resetBlock`, and a word with SRST's opcode and a nonzero ARG is ILLEGAL. -/
theorem bothResetsGiveResetValues : Obligations.BothResetsGiveResetValues := by
  refine ⟨rfl, (decode_srst 1).trans (plainCommand_of_ne_zero (by decide) .srst),
    fun s => ⟨?srst, fun rest hturns => ?hard⟩⟩
  case srst =>
    exact ⟨resetBlock s, exec_srst s, hostView_resetBlock s, statusWord_resetBlock s, irqLine_resetBlock s⟩
  case hard =>
    exact ⟨resetBlock { s with turns := rest }, step_of_hardReset hturns, hostView_resetBlock _,
      statusWord_resetBlock _, irqLine_resetBlock _⟩

end Sys2Proof.Machine

/-! The decoder against the encoder and the opcode table, for every word of the three formats (spec/30_encoding.md R90
to R97). -/

namespace Sys2Proof.Machine

/-! Phase and selection codes (R96, R97) -/

/-- A phase code that decodes is the code of its micro-operation. -/
theorem encode_of_decode_phase (p : BitVec 4) : ∀ i ∈ (decode (.phase p)).instr?, encode i = .phase p := by
  revert p
  decide

/-- A selection code that decodes is the code of its selection. -/
theorem encode_of_decode_sel (k : BitVec 4) : ∀ i ∈ (decode (.sel k)).instr?, encode i = .sel k := by
  revert k
  decide

/-! Both directions of the round trip -/

theorem instr?_of_decode {w : CodeWord} {i : Instr} (h : decode w = .instr i) : i ∈ (decode w).instr? := by
  rw [h]
  rfl

/-- A word that decodes is the one encoding of its operation. -/
theorem encode_of_decode {w : CodeWord} {i : Instr} (h : decode w = .instr i) : encode i = w := by
  cases w with
  | cmd c => exact encode_of_decode_cmd h
  | phase p => exact encode_of_decode_phase p i (instr?_of_decode h)
  | sel k => exact encode_of_decode_sel k i (instr?_of_decode h)

theorem decode_hclr (arg : Byte) : decode (.cmd (commandWord 0x01 arg)) = plainCommand arg .hclr := by
  simp [decode, decodeCommand]

theorem decode_encode (i : Instr) : decode (encode i) = .instr i := by
  cases i with
  | nop => exact (decode_nop 0).trans (plainCommand_zero .nop)
  | hclr => exact (decode_hclr 0).trans (plainCommand_zero .hclr)
  | hpush b => exact decode_hpush b
  | leaf => exact (decode_leaf 0).trans (plainCommand_zero .leaf)
  | tree level => exact decode_tree level
  | pow => exact (decode_pow 0).trans (plainCommand_zero .pow)
  | ack => exact (decode_ack 0).trans (plainCommand_zero .ack)
  | srst => exact (decode_srst 0).trans (plainCommand_zero .srst)
  | _ => rfl

/-- Settles O1, by the two directions of the round trip. -/
theorem decodeInvertsEncode : Obligations.DecodeInvertsEncode := fun _ i =>
  ⟨fun h => (encode_of_decode h).symm, fun h => h ▸ decode_encode i⟩

/-! The match and mask rows of R91 -/

/-- A full mask matches one word. -/
theorem eq_of_and_full_mask {c m : Word} (h : c &&& 0xFFFFFFFF = m) : c = m := by
  rw [← h]
  exact BitVec.and_allOnes.symm

/-- A mask that leaves ARG out fixes the two other fields. -/
theorem fields_of_and_mask {c : Word} {opc : Byte} (h : c &&& 0xFFFF00FF = commandWord opc 0) :
    c = commandWord opc (argField c) := by
  have hrsv : rsvField c = rsvField (c &&& 0xFFFF00FF) := by
    simp only [rsvField, BitVec.extractLsb'_and]
    exact BitVec.and_allOnes.symm
  have hopc : opcField c = opcField (c &&& 0xFFFF00FF) := by
    simp only [opcField, BitVec.extractLsb'_and]
    exact BitVec.and_allOnes.symm
  rw [h] at hrsv hopc
  rw [rsvField_commandWord] at hrsv
  rw [opcField_commandWord] at hopc
  exact eq_commandWord hrsv (congrArg BitVec.toNat hopc) rfl

/-- A command word that matches a row is the word of an operation of that row. -/
theorem encode_of_rowMatches {c : Word} {i : Instr} (h : rowMatches (.cmd c) (tableRow i) = true) :
    ∃ j, encode j = .cmd c ∧ tableRow j = tableRow i := by
  cases i with
  | hpush b => exact ⟨.hpush (argField c), congrArg _ (fields_of_and_mask (eq_of_beq h)).symm, rfl⟩
  | tree level => exact ⟨.tree (argField c), congrArg _ (fields_of_and_mask (eq_of_beq h)).symm, rfl⟩
  | nop | hclr | leaf | pow | ack | srst =>
    refine ⟨_, ?_, rfl⟩
    exact congrArg _ (eq_of_and_full_mask (eq_of_beq h)).symm
  | _ => cases h

/-- A command word that decodes matches the row of its operation. -/
theorem rowMatches_of_decode {c : Word} {i : Instr} (h : decode (.cmd c) = .instr i) :
    rowMatches (.cmd c) (tableRow i) = true := by
  rw [← encode_of_decode h]
  rcases decode_cmd_instr h with rfl | rfl | ⟨b, rfl⟩ | rfl | ⟨level, rfl⟩ | rfl | rfl | rfl
  · exact Laws.TableRow.nop.2
  · exact Laws.TableRow.hclr.2
  · exact (Laws.TableRow.hpush b).2
  · exact Laws.TableRow.leaf.2
  · exact (Laws.TableRow.tree level).2
  · exact Laws.TableRow.pow.2
  · exact Laws.TableRow.ack.2
  · exact Laws.TableRow.srst.2

/-- The rows are disjoint: a word matched by two of them decodes to one operation of both. -/
theorem tableRow_unique {c : Word} {i j : Instr} (hi : rowMatches (.cmd c) (tableRow i) = true)
    (hj : rowMatches (.cmd c) (tableRow j) = true) : tableRow i = tableRow j := by
  obtain ⟨i', hi', hrow⟩ := encode_of_rowMatches hi
  obtain ⟨j', hj', hrow'⟩ := encode_of_rowMatches hj
  have hdec : Decoded.instr i' = .instr j' := by rw [← decode_encode i', hi', ← hj', decode_encode]
  rw [← hrow, ← hrow', Decoded.instr.inj hdec]

/-- A rejected command word is ILLEGAL, the one rejection of its format (R93). -/
theorem decode_cmd_reject {c : Word} {r : Reject} (h : decode (.cmd c) = .reject r) : r = .illegal := by
  rw [decode, decodeCommand] at h
  unfold plainCommand at h
  repeat' split at h
  all_goals cases h
  all_goals rfl

/-- The argument of HPUSH and TREE is bits 15:8 of the word (R92). -/
theorem arg_of_commandWord {c : Word} {opc arg : Byte} (h : commandWord opc arg = c) : arg.toNat = c.toNat / 256 % 256 := by
  have hopc := opc.isLt
  rw [← h, commandWord_toNat]
  omega

/-- Settles O2: a word that decodes matches its operation's row, and one that matches a row decodes. -/
theorem commandDecodeFollowsTable : Obligations.CommandDecodeFollowsTable := by
  refine ⟨fun c => ?selects, fun c i j => tableRow_unique, fun c b hdec => ?argument⟩
  case selects =>
    cases hdec : decode (.cmd c) with
    | instr i => exact .inl ⟨i, rfl, rowMatches_of_decode hdec⟩
    | reject r =>
      refine .inr ⟨fun i => Bool.eq_false_of_not_eq_true fun hrow => ?_, by rw [decode_cmd_reject hdec]⟩
      obtain ⟨j, hj, -⟩ := encode_of_rowMatches hrow
      rw [← hj, decode_encode] at hdec
      cases hdec
  case argument =>
    rcases hdec with hdec | hdec
    · exact arg_of_commandWord (CodeWord.cmd.inj (encode_of_decode hdec))
    · exact arg_of_commandWord (CodeWord.cmd.inj (encode_of_decode hdec))

end Sys2Proof.Machine

/-! The leaf engine as a whole (spec/40_leaf_engine.md R125 to R136, R143): the calls its rounds make and the phases it passes
through. -/

namespace Sys2Proof.Machine

/-! The selections (R125 to R136) -/

/-- In L_H0 the mux drives the node's header. -/
theorem muxMessage_lH0 {s : State} (h : s.ph = .lH0) : muxMessage s = (nodeHeader s).toList := if_pos h

/-- In every other phase it drives W. -/
theorem muxMessage_of_ne_lH0 {s : State} (h : s.ph ≠ .lH0) : muxMessage s = s.dp.w.toList := if_neg h

theorem exec_h0 (s : State) : exec .h0 s = .next (callPrimitive Config.units 0 (muxMessage s) s) := rfl

/-- Settles O20: H0 calls with the mux's message, every other selection with W. -/
theorem selectionsCallTheirPrimitive : Obligations.SelectionsCallTheirPrimitive := by
  intro s
  refine ⟨fun hp => ?header, fun hp => ?digest, rfl, rfl, rfl, rfl, rfl, rfl, rfl, rfl, rfl, rfl⟩
  case header => rw [exec_h0, muxMessage_lH0 hp]; rfl
  case digest => rw [exec_h0, muxMessage_of_ne_lH0 hp]; rfl

/-- Outside L_H0 the selection of a code of K is one call of that primitive on W. -/
theorem exec_selection (k : Fin PRIMITIVE_COUNT) {s : State} (hp : s.ph ≠ .lH0) :
    ∃ j, decode (.sel (BitVec.ofNat 4 k.val)) = .instr j
      ∧ exec j s = .next (callPrimitive Config.units k s.dp.w.toList s) := by
  fin_cases k
  · exact ⟨.h0, rfl, by rw [exec_h0, muxMessage_of_ne_lH0 hp]; rfl⟩
  all_goals exact ⟨_, rfl, rfl⟩

/-- Settles O21: L_RND makes the call of `exec_selection` and L_H0 that of H0. -/
theorem roundRunsTheSelectedPrimitive : Obligations.RoundRunsTheSelectedPrimitive := by
  refine fun s => ⟨fun hp => ?round, fun hp => ⟨_, exec_h0 s, ?first⟩⟩
  case round =>
    obtain ⟨j, hdec, hexec⟩ := exec_selection s.dp.k (s := s) (by simp [hp])
    exact ⟨j, _, hdec, hexec, rfl⟩
  case first => rw [muxMessage_lH0 hp]; rfl

/-! The phases of the chain (R141, R143) -/

/-- R141, for the count of a header's chain. -/
theorem leafIters_bounds (U : Units) (h : Header) : 2 ≤ leafIters U h ∧ leafIters U h ≤ 6 := iterCount_bounds _

/-- The phase `j` steps after the loop is entered in L_SEL with `left` rounds to go. -/
def loopPhase (left j : Nat) : Phase :=
  if j = 2 * left + 1 then .lOut else if j % 2 = 0 then .lSel else .lRnd

/-- One round takes the loop two steps on. -/
theorem loopPhase_succ (left j : Nat) : loopPhase (left + 1) (j + 2) = loopPhase left j := by
  have hlast : j + 2 = 2 * (left + 1) + 1 ↔ j = 2 * left + 1 := by omega
  rw [loopPhase, loopPhase, if_congr hlast rfl rfl, Nat.add_mod_right]

theorem loopPhase_zero (left : Nat) : loopPhase left 0 = .lSel := by simp [loopPhase]

/-- The step after the first of the loop selects a round or leaves the loop. -/
theorem loop_second_phase {left : Nat} {s : State} (hp : s.ph = .lSel) (hturns : s.turns = [])
    (hleft : s.dp.i.toNat + left = s.dp.n.toNat) :
    ∃ u, runSteps 1 s = .next u ∧ u.ph = loopPhase left 1 := by
  refine ⟨_, runSteps_one (step_lSel hturns hp), ?_⟩
  rcases leafSelect_cases s with ⟨hlt, hsel⟩ | ⟨hle, hsel⟩ <;> rw [hsel]
  · have hround : left ≠ 0 := by omega
    simp [loopPhase, hround]
  · obtain rfl : left = 0 := by omega
    rfl

theorem leafLoop_phase {left j : Nat} {s : State} (hp : s.ph = .lSel) (hturns : s.turns = [])
    (hleft : s.dp.i.toNat + left = s.dp.n.toNat) (hj : j < 2 * left + 2) :
    ∃ u, runSteps j s = .next u ∧ u.ph = loopPhase left j := by
  induction left generalizing j s with
  | zero =>
    obtain rfl | rfl : j = 0 ∨ j = 1 := by omega
    · exact ⟨s, rfl, hp⟩
    · exact loop_second_phase hp hturns hleft
  | succ left ih =>
    match j with
    | 0 => exact ⟨s, rfl, hp.trans (loopPhase_zero _).symm⟩
    | 1 => exact loop_second_phase hp hturns hleft
    | j + 2 =>
      have hlt : s.dp.i.toNat < s.dp.n.toNat := by omega
      obtain ⟨u, hrun, hu⟩ := ih (j := j) (s := afterRound s) rfl hturns
        (by rw [afterRound_i_toNat hlt, Nat.add_right_comm]; exact hleft) (by omega)
      rw [loopPhase_succ, Nat.add_comm j 2]
      exact ⟨u, runSteps_trans (afterRound_run hp hturns hlt) hrun, hu⟩

/-- The loop is entered two steps after L_H0, with `n - 1` rounds to go. -/
theorem loopEntry_run {s : State} (hp : s.ph = .lH0) (hturns : s.turns = []) :
    runSteps 2 s = .next (leafCount (leafFirstPass Config.units s)) :=
  runSteps_trans (runSteps_one (step_lH0 hturns hp)) (runSteps_one (step_lCnt hturns rfl))

theorem loopEntry_rounds (s : State) :
    (leafCount (leafFirstPass Config.units s)).dp.i.toNat + (leafIters Config.units (nodeHeader s) - 1)
      = (leafCount (leafFirstPass Config.units s)).dp.n.toNat := by
  have hn : (leafCount (leafFirstPass Config.units s)).dp.n.toNat = leafIters Config.units (nodeHeader s) :=
    leafCount_n_toNat _
  obtain ⟨hmin, -⟩ := leafIters_bounds Config.units (nodeHeader s)
  have hi : (leafCount (leafFirstPass Config.units s)).dp.i.toNat = 1 := rfl
  omega

/-- The loop's phases, counted from L_H0 as R143 lists them. -/
theorem loopPhase_from_lH0 {n j : Nat} (hn : 2 ≤ n) (hj : 2 ≤ j) :
    loopPhase (n - 1) (j - 2) = if j = 2 * n + 1 then .lOut else if j % 2 = 0 then .lSel else .lRnd := by
  have hlast : j - 2 = 2 * (n - 1) + 1 ↔ j = 2 * n + 1 := by omega
  have hparity : (j - 2) % 2 = 0 ↔ j % 2 = 0 := by omega
  rw [loopPhase, if_congr hlast rfl (if_congr hparity rfl rfl)]

/-- Every phase of the engine's `2n + 2` steps. -/
theorem leafEngine_phase {s : State} (hp : s.ph = .lH0) (hturns : s.turns = []) {j : Nat}
    (hj : j < 2 * leafIters Config.units (nodeHeader s) + 2) :
    ∃ u, runSteps j s = .next u
      ∧ u.ph = (if j = 0 then .lH0 else if j = 1 then .lCnt
                else if j = 2 * leafIters Config.units (nodeHeader s) + 1 then .lOut
                else if j % 2 = 0 then .lSel else .lRnd) := by
  obtain ⟨hmin, -⟩ := leafIters_bounds Config.units (nodeHeader s)
  match j with
  | 0 => exact ⟨s, rfl, hp⟩
  | 1 => exact ⟨_, runSteps_one (step_lH0 hturns hp), rfl⟩
  | j + 2 =>
    obtain ⟨u, hrun, hu⟩ := leafLoop_phase (left := leafIters Config.units (nodeHeader s) - 1) (j := j)
      (s := leafCount (leafFirstPass Config.units s)) rfl hturns (loopEntry_rounds s) (by omega)
    refine ⟨u, Nat.add_comm j 2 ▸ runSteps_trans (loopEntry_run hp hturns) hrun, ?_⟩
    rw [if_neg (by omega), if_neg (by omega), ← loopPhase_from_lH0 hmin (by omega)]
    exact hu

/-- Settles O22: `leafEngine_run` gives the result, `leafEngine_phase` the phases on the way. -/
theorem leafEngineComputesLeafHash : Obligations.LeafEngineComputesLeafHash := by
  intro s hp hturns
  obtain ⟨t, hrun, hframe, hld⟩ := leafEngine_run hp hturns
  exact ⟨t, hrun, hframe, hld, fun j hj => leafEngine_phase hp hturns hj⟩

end Sys2Proof.Machine

/-! The functional definitions (spec/41_tree_controller.md R170, spec/70_reset_and_hazards.md R312): what `treeHash` is at each
level, and the step count of a run with its bounds. -/

namespace Sys2Proof.Machine

/-! The step count (R141, R312) -/

/-- S is the sum of the iteration counts over the headers of the call tree. -/
theorem treeIters_eq_sum (U : Units) (depth : Nat) (h : Header) :
    treeIters U depth h = ((treeHeaders U depth h).map (leafIters U)).sum := by
  induction depth generalizing h with
  | zero => simp [treeIters, treeHeaders]
  | succ depth ih => simp [treeIters, treeHeaders, ih, Nat.add_assoc]

/-- Each of the headers counts 2 to 6 iterations. -/
theorem treeIters_bounds (U : Units) (depth : Nat) (h : Header) :
    2 * (2 ^ (depth + 1) - 1) ≤ treeIters U depth h ∧ treeIters U depth h ≤ 6 * (2 ^ (depth + 1) - 1) := by
  rw [treeIters_eq_sum, ← length_treeHeaders U depth h]
  have hbound : ∀ n ∈ (treeHeaders U depth h).map (leafIters U), 2 ≤ n ∧ n ≤ 6 :=
    List.forall_mem_map.mpr fun g _ => leafIters_bounds U g
  constructor
  · simpa [Nat.mul_comm] using List.card_nsmul_le_sum _ 2 fun n hn => (hbound n hn).1
  · simpa [Nat.mul_comm] using List.sum_le_card_nsmul _ 6 fun n hn => (hbound n hn).2

/-- Settles O50, by the closed form of the step count and the bounds of each node's count. -/
theorem stepCountOfRun : Obligations.StepCountOfRun := by
  intro U h level hlow _
  have hbounds := treeIters_bounds U (level - 1) h
  rw [Nat.sub_add_cancel hlow] at hbounds
  exact ⟨leafIters_bounds U h, treeIters_eq_sum U _ h, treeSteps_eq U _ h, hbounds⟩

/-! The tree hash by levels (R170, R184, R220) -/

theorem combine_eq (U : Units) (self left right : Digest) :
    combine U self left right = U.c256 (U.c256 (self.toList ++ left.toList ++ right.toList)).toList := by
  rw [combine, concat3_toList]

/-- The internal case of R170: the node's own digest combined with those of its two children. -/
theorem treeHash_internal (U : Units) (h : Header) {level : Nat} (hlow : 2 ≤ level) (hhigh : level ≤ 7) :
    treeHash U h level = some (combine U (leafHash U h) (treeHashAt U (level - 2) (leftHeader U h))
      (treeHashAt U (level - 2) (rightHeader U h))) := by
  obtain ⟨depth, rfl⟩ := Nat.exists_eq_add_of_le hlow
  rw [treeHash_of_level U h (by omega) hhigh, Nat.add_sub_cancel_left, show 2 + depth - 1 = depth + 1 by omega, treeHashAt]

/-- Settles O51, by the cases of the level; the children's headers differ from the node's in the nonce alone. -/
theorem treeHashUnfolds : Obligations.TreeHashUnfolds := by
  refine fun U h => ⟨treeHash_of_level U h (by decide) (by decide), fun level hlow hhigh => ?internal,
    fun level hout => if_neg (by simp only [MIN_LEVEL, MAX_LEVEL]; omega),
    treeHash_of_level U h (by decide) (by decide)⟩
  case internal =>
    refine ⟨leftHeader U h, rightHeader U h, _, _, treeHash_of_level U _ (by omega) (by omega),
      treeHash_of_level U _ (by omega) (by omega),
      fun j => ⟨samePrefix_withNonce h _ j, samePrefix_withNonce h _ j⟩, headerNonce_withNonce _ _,
      headerNonce_withNonce _ _, ?_⟩
    rw [treeHash_internal U h hlow hhigh, combine_eq]
    rfl

end Sys2Proof.Machine

/-! Undisturbed runs (spec/41_tree_controller.md R173, spec/43_host_commands.md R221): what the host finds in DONE, whether it
does nothing or waits. -/

namespace Sys2Proof.Machine

/-- Settles O52: the recursion of R173, with its run spelled out as an equation on the state. -/
theorem subtreeReturnsTreeHash : Obligations.SubtreeReturnsTreeHash := by
  intro depth s hp hturns hlevel
  obtain ⟨t, hrun, htp, hret, hnonce⟩ := nodeReturns depth s hp hturns hlevel
  refine ⟨t, hrun.run, ?same, hrun.leafcnt, hret, hnonce, hrun.below⟩
  case same =>
    have hsame := hrun.same
    rwa [SameRun, htp, hrun.sp] at hsame

/-! What a run delivers (R173, R312) -/

/-- `t` is in DONE with the results of a run that the start command `i` began at `level` on the header `h`. -/
structure Delivered (i : Instr) (level : Nat) (h : Header) (t : State) : Prop where
  ph : t.ph = .done
  sp : t.sp = 0
  rootlvl : t.rootlvl.toNat = level
  lastop : t.lastop = startOpcode i
  hdr : t.hdr = h
  hcnt : t.hcnt = 80
  res : t.res = treeHashAt Config.units (level - 1) h
  leafcnt : t.leafcnt.toNat = 2 ^ level - 1

/-- STATUS of a delivered run: the level, the opcode, PH = DONE, HRDY and DONE (R32). -/
theorem Delivered.statusWord_toNat {i : Instr} {level : Nat} {h : Header} {t : State} (ht : Delivered i level h t) :
    (statusWord t).toNat = level * 2 ^ 24 + (startOpcode i).toNat * 2 ^ 16 + 0xDA := by
  rw [Machine.statusWord_toNat, ht.rootlvl, ht.lastop, ht.sp]
  simp only [busyFlag, doneFlag, errFlag, hrdyFlag, ht.ph, ht.hcnt]
  change 0 + 2 * 1 + 4 * 0 + 8 * 1 + 2 ^ 4 * 13 + 2 ^ 8 * 0 + _ + _ = _
  omega

/-- The root's return delivers the run (R153). -/
theorem Delivered.of_finishRun {i : Instr} {level : Nat} {c : Word} {s t : State} (hlevel : startLevel i = some level)
    (hc : encode i = .cmd c) (hhigh : level ≤ 7) (hfull : s.hcnt = 80) (hsame : SameRun (startRun level c s) t)
    (hsp : t.sp = 0) (hret : t.dp.ret = treeHashAt Config.units (level - 1) s.hdr)
    (hcount : t.leafcnt = BitVec.ofNat 32 (2 ^ level - 1)) : Delivered i level s.hdr (finishRun t) where
  ph := rfl
  sp := hsp
  rootlvl := (congrArg BitVec.toNat hsame.rootlvl).trans (startRun_rootlvl_toNat hhigh c s)
  lastop := hsame.lastop.trans (opcField_start hlevel hc)
  hdr := hsame.hdr
  hcnt := hsame.hcnt.trans hfull
  res := hret
  leafcnt := (congrArg BitVec.toNat hcount).trans (completeCount_toNat hhigh)

/-- The state after an accepted start with nothing queued is a delivered run from its step count on. -/
theorem startRun_delivers {i : Instr} {level n : Nat} {c : Word} {s : State} (hlevel : startLevel i = some level)
    (hc : encode i = .cmd c) (hlow : 1 ≤ level) (hhigh : level ≤ 7) (hfull : s.hcnt = 80) (hturns : s.turns = [])
    (hn : treeSteps Config.units (level - 1) s.hdr ≤ n) :
    ∃ t, runSteps n (startRun level c s) = .next (finishRun t) ∧ SameRun (startRun level c s) t
      ∧ Delivered i level s.hdr (finishRun t) := by
  obtain ⟨t, hrun, hsame, hsp, hret, hcount⟩ := startRun_late hturns hlow hhigh c hn
  exact ⟨t, hrun, hsame, .of_finishRun hlevel hc hhigh hfull hsame hsp hret hcount⟩

theorem SameRun.ien {s t : State} (h : SameRun s t) : t.ien = s.ien := by rw [h]
theorem SameRun.rdata {s t : State} (h : SameRun s t) : t.rdata = s.rdata := by rw [h]

/-- Settles O54: the start, then `startRun_delivers`; STATUS is that of a delivered run. -/
theorem undisturbedRunDelivers : Obligations.UndisturbedRunDelivers := by
  intro s i c level k hlevel hc hlow hhigh hready hfull hturns
  have hstart := step_of_start hlevel hc hready (by rw [hfull]; rfl) hlow hhigh hturns
  obtain ⟨t, hrun, hsame, ht⟩ := startRun_delivers (s := { s with turns := [] }) hlevel hc hlow hhigh hfull rfl
    (Nat.le_add_right _ k)
  refine ⟨finishRun t, ?run, ht.ph, ht.sp, ht.rootlvl, ht.lastop, ht.hdr, ht.hcnt.trans hfull.symm, hsame.ien, hsame.rdata,
    hsame.turns, ?res, ht.leafcnt, ht.statusWord_toNat⟩
  case run =>
    rw [Nat.add_assoc]
    exact runSteps_trans (runSteps_one hstart) hrun
  case res => rw [ht.res, treeHash_of_level _ _ hlow hhigh]

/-! A host that waits (R101 `.wait`; log 15) -/

theorem step_of_wait_busy {s : State} {rest : List Turn} (hturns : s.turns = .wait :: rest) (hb : busyFlag s = true) :
    step s = sequencerTurn s := (step_of_turn hturns).trans (if_pos hb)

theorem step_of_wait_ready {s : State} {rest : List Turn} (hturns : s.turns = .wait :: rest) (hb : busyFlag s = false) :
    step s = .next { s with turns := rest, rdata := some (statusWord s) } :=
  (step_of_turn hturns).trans (if_neg (Bool.eq_false_iff.mp hb))

/-- As long as the run is under way, a host that waits lets every step be the sequencer's. -/
theorem runSteps_wait {n : Nat} (rest : List Turn) (ien : BitVec 2) (rd : Option Word) {s u : State} (hturns : s.turns = [])
    (h : runSteps n s = .next u) (hb : busyFlag u = true) :
    runSteps n (setHost (.wait :: rest) ien rd s) = .next (setHost (.wait :: rest) ien rd u) := by
  induction n generalizing s with
  | zero => rw [← Host.Outcome.next.inj h]; rfl
  | succ n ih =>
    have hbusy := busyFlag_of_runSteps hturns h hb
    cases hstep : step s with
    | fault r => simp [runSteps, hstep] at h
    | refused r => simp [runSteps, hstep] at h
    | next v =>
      rw [runSteps_succ hstep] at h
      rw [step_of_no_turns hturns] at hstep
      have hwait := step_of_wait_busy (s := setHost (.wait :: rest) ien rd s) rfl hbusy
      rw [runSteps_succ (hwait.trans (sequencerTurn_setHost _ ien rd hstep))]
      exact ih ((sequencerTurn_turns hstep).trans hturns) h

/-- What a run delivers does not depend on the host's own fields. -/
theorem Delivered.setHost {i : Instr} {level : Nat} {h : Header} {t : State} (ht : Delivered i level h t) (ts : List Turn)
    (ien : BitVec 2) (rd : Option Word) : Delivered i level h (setHost ts ien rd t) :=
  ⟨ht.ph, ht.sp, ht.rootlvl, ht.lastop, ht.hdr, ht.hcnt, ht.res, ht.leafcnt⟩

/-- A start followed by a wait: the start's step, the run's, and the poll that returns STATUS. -/
theorem waitedRun_delivers {i : Instr} {level : Nat} {c : Word} {s : State} (hlevel : startLevel i = some level)
    (hc : encode i = .cmd c) (hlow : 1 ≤ level) (hhigh : level ≤ 7) (hready : s.ph = .idle ∨ s.ph = .done)
    (hfull : s.hcnt = 80) (hturns : s.turns = [.host (.write 0 4 c), .wait]) :
    ∃ t, runSteps (1 + (treeSteps Config.units (level - 1) s.hdr - 1) + 1 + 1) s = .next t
      ∧ Delivered i level s.hdr t ∧ t.turns = [] ∧ t.rdata = some (statusWord t) := by
  have hstart : step s = .next (setHost [.wait] s.ien s.rdata (startRun level c { s with turns := [] })) :=
    step_of_start hlevel hc hready (by rw [hfull]; rfl) hlow hhigh hturns
  obtain ⟨t, hrun, hp, hret⟩ := startRun_reaches_tRet (s := { s with turns := [] }) rfl hlow hhigh c
  have hsp : t.sp = 0 := hrun.sp
  have hbusy : busyFlag t = true := busyFlag_of_busyPhase hp rfl
  have hwait := runSteps_wait [] s.ien s.rdata rfl hrun.run hbusy
  have hreturn : sequencerTurn t = .next (finishRun t) :=
    (step_of_no_turns (hrun.turns rfl)).symm.trans
      ((step_tRet (hrun.turns rfl) hp).trans (treeReturn_root (by rw [hsp]; rfl)))
  have hlast := (step_of_wait_busy (s := setHost [.wait] s.ien s.rdata t) rfl hbusy).trans
    (sequencerTurn_setHost _ s.ien s.rdata hreturn)
  have hpoll := step_of_wait_ready (s := setHost [.wait] s.ien s.rdata (finishRun t)) rfl rfl
  have ht : Delivered i level s.hdr (finishRun t) :=
    .of_finishRun (s := { s with turns := [] }) hlevel hc hhigh hfull hrun.same hsp hret
      (hrun.leafcnt.trans (BitVec.zero_add _))
  exact ⟨_, runSteps_trans (runSteps_trans (runSteps_trans (runSteps_one hstart) hwait) (runSteps_one hlast))
    (runSteps_one hpoll), ht.setHost _ _ _, rfl, rfl⟩

/-- Settles O56: both runs deliver the same run of the same header. -/
theorem runsAreDeterministic : Obligations.RunsAreDeterministic := by
  intro s u i c level hlevel hc hlow hhigh hs hu hsfull hufull hhdr hsturns huturns
  obtain ⟨s', hsrun, hs', hsempty, hsread⟩ := waitedRun_delivers hlevel hc hlow hhigh hs hsfull hsturns
  obtain ⟨u', hurun, hu', huempty, huread⟩ := waitedRun_delivers hlevel hc hlow hhigh hu hufull huturns
  rw [← hhdr] at hurun hu'
  have hstatus : statusWord s' = statusWord u' :=
    BitVec.eq_of_toNat_eq (hs'.statusWord_toNat.trans hu'.statusWord_toNat.symm)
  exact ⟨_, s', u', hsrun, hurun, hs'.ph, hu'.ph, hsempty, huempty, by rw [hsread, huread, hstatus], hsread,
    hs'.res.trans hu'.res.symm, BitVec.eq_of_toNat_eq (hs'.leafcnt.trans hu'.leafcnt.symm), hstatus⟩

end Sys2Proof.Machine

/-! What every step keeps (spec/10_state.md R29 to R34, spec/20_memory.md R73, spec/60_exceptions.md R276): what a step can do,
said once per agent and once per micro-operation, and the invariants that follow. -/

namespace Sys2Proof.Machine

/-! The ways a step can go (R70) -/

/-- Everything a step can do, by who does it: the sequencer, the host short of CMD, the hard reset, a word written to CMD. -/
theorem step_by_agent {s t : State} (h : step s = .next t) :
    (∃ ts, sequencerTurn { s with turns := ts } = .next t)
    ∨ (∃ ts ien rd, t = setHost ts ien rd s)
    ∨ (∃ ts, t = resetBlock { s with turns := ts })
    ∨ (∃ c rest, s.turns = .host (.write 0 4 c) :: rest ∧ dispatchWord c { s with turns := rest } = .next t) := by
  rcases step_cases s with ⟨-, hs⟩ | ⟨a, rest, hturns, hs⟩ | ⟨rest, -, hs⟩ | ⟨rest, -, hs⟩ | ⟨rest, -, -, hs⟩ | ⟨rest, -, -, hs⟩
    <;> rw [hs] at h
  · exact .inl ⟨s.turns, h⟩
  · rcases hostAccess_cases a { s with turns := rest } with ⟨-, ha⟩ | ⟨off, len, -, -, ha⟩ | ⟨off, len, v, rfl, hwf, ha⟩
      <;> rw [ha] at h
    · cases h
    · exact .inr (.inl ⟨rest, s.ien, _, (Host.Outcome.next.inj h).symm⟩)
    · rcases memWrite_cases off v { s with turns := rest } with ⟨rfl, hw⟩ | ⟨-, hw⟩ | ⟨-, -, hw⟩ <;> rw [hw] at h
      · obtain rfl : len = 4 := by simpa [Access.wellFormed, wordShape] using hwf
        exact .inr (.inr (.inr ⟨v, rest, hturns, h⟩))
      · exact .inr (.inl ⟨rest, _, s.rdata, (Host.Outcome.next.inj h).symm⟩)
      · exact .inr (.inl ⟨rest, s.ien, s.rdata, (Host.Outcome.next.inj h).symm⟩)
  · exact .inr (.inr (.inl ⟨rest, (Host.Outcome.next.inj h).symm⟩))
  · exact .inl ⟨rest, h⟩
  · exact .inl ⟨s.turns, h⟩
  · exact .inr (.inl ⟨rest, s.ien, _, (Host.Outcome.next.inj h).symm⟩)

/-- Everything a sequencer turn can do, one constructor per micro-operation and branch (R120 to R124, R150 to R153, R180 to
R182). -/
inductive MicroStep (s : State) : State → Prop
  /-- IDLE, DONE and ERR have no micro-operation -/
  | none (h : busyFlag s = false) : MicroStep s s
  | lH0 (h : s.ph = .lH0) : MicroStep s (leafFirstPass Config.units s)
  | lCnt (h : s.ph = .lCnt) : MicroStep s (leafCount s)
  /-- L_SEL with a round to go -/
  | select (h : s.ph = .lSel) (hlt : s.dp.i.toNat < s.dp.n.toNat) :
      MicroStep s { s with dp.k := selIndex s.dp.w s.dp.i.toNat, ph := .lRnd }
  /-- L_SEL after the last round -/
  | leave (h : s.ph = .lSel) (hle : s.dp.n.toNat ≤ s.dp.i.toNat) : MicroStep s { s with ph := .lOut }
  | lRnd (h : s.ph = .lRnd) : MicroStep s (leafRound Config.units s)
  | lOut (h : s.ph = .lOut) : MicroStep s (leafOut s)
  /-- T_DISP of a terminal node -/
  | terminal (h : s.ph = .tDisp) (hlevel : s.rootlvl.toNat = s.sp.val + 1) :
      MicroStep s { s with dp.ret := s.dp.ld, ph := .tRet }
  /-- T_DISP of an internal node -/
  | internal (h : s.ph = .tDisp) (hlevel : s.rootlvl.toNat ≠ s.sp.val + 1) :
      MicroStep s { putFrame s s.sp { frameAt s s.sp with self := s.dp.ld } with ph := .tDrift }
  | tDrift (h : s.ph = .tDrift) : MicroStep s (treeDrift s)
  /-- T_PUSH within its precondition -/
  | call (h : s.ph = .tPush) (c : Child) (d : Fin NFRAMES) (hd : d.val = s.sp.val + 1)
      (hc : childSel Config.childOrder (frameAt s s.sp).cs = some c) : MicroStep s (enterChild c d s)
  /-- T_RET of the root -/
  | finish (h : s.ph = .tRet) (hsp : s.sp = 0) : MicroStep s (finishRun s)
  /-- T_RET of a child -/
  | back (h : s.ph = .tRet) (c : Child) (p : Fin NFRAMES) (hp : s.sp.val = p.val + 1)
      (hc : childSel Config.childOrder (frameAt s p).cs = some c) : MicroStep s (leaveChild c p s)
  | cCat (h : s.ph = .cCat) : MicroStep s (combineCat s)
  | cR1 (h : s.ph = .cR1) : MicroStep s (combineFirst Config.units s)
  | cR2 (h : s.ph = .cR2) : MicroStep s (combineSecond Config.units s)

theorem MicroStep.of_leafSelect {s : State} (h : s.ph = .lSel) : MicroStep s (leafSelect s) := by
  rcases leafSelect_cases s with ⟨hlt, hsel⟩ | ⟨hle, hsel⟩ <;> rw [hsel]
  · exact .select h hlt
  · exact .leave h hle

theorem MicroStep.of_treeDispatch {s : State} (h : s.ph = .tDisp) : MicroStep s (treeDispatch s) := by
  rcases treeDispatch_cases s with ⟨hlevel, hdisp⟩ | ⟨hlevel, hdisp⟩ <;> rw [hdisp]
  · exact .terminal h hlevel
  · exact .internal h hlevel

theorem MicroStep.of_treePush {s t : State} (h : s.ph = .tPush) (ht : treePush Config.childOrder s = .next t) :
    MicroStep s t := by
  rcases treePush_cases Config.childOrder s with ⟨c, hsp, hc, hpush⟩ | ⟨-, hpush⟩ | ⟨-, hpush⟩ <;> rw [hpush] at ht <;>
    cases ht
  exact .call h c _ rfl hc

theorem MicroStep.of_treeReturn {s t : State} (h : s.ph = .tRet) (ht : treeReturn Config.childOrder s = .next t) :
    MicroStep s t := by
  rcases treeReturn_cases Config.childOrder s with ⟨hsp, hret⟩ | ⟨hsp, c, hc, hret⟩ | ⟨-, -, hret⟩ <;> rw [hret] at ht <;>
    cases ht
  · exact .finish h (Fin.ext hsp)
  · exact .back h c _ (by simp only [parentOf]; omega) hc

theorem MicroStep.of_sequencerTurn {s t : State} (h : sequencerTurn s = .next t) : MicroStep s t := by
  cases hb : busyFlag s with
  | false =>
    rw [sequencerTurn_of_not_busy hb] at h
    exact Host.Outcome.next.inj h ▸ .none hb
  | true =>
    obtain ⟨hidle, hdone, herr⟩ := ph_ne_of_busyFlag hb
    rw [sequencerTurn_eq] at h
    cases hp : s.ph <;> rw [hp] at h
    case idle => exact absurd hp hidle
    case done => exact absurd hp hdone
    case err => exact absurd hp herr
    case tPush => exact .of_treePush hp h
    case tRet => exact .of_treeReturn hp h
    all_goals obtain rfl := Host.Outcome.next.inj h
    case lH0 => exact .lH0 hp
    case lCnt => exact .lCnt hp
    case lSel => exact .of_leafSelect hp
    case lRnd => exact .lRnd hp
    case lOut => exact .lOut hp
    case tDisp => exact .of_treeDispatch hp
    case tDrift => exact .tDrift hp
    case cCat => exact .cCat hp
    case cR1 => exact .cR1 hp
    case cR2 => exact .cR2 hp

/-! Starts (R209): the one way into a run -/

/-- A block that takes commands is not in a run. -/
theorem not_busyFlag_of_ready {s : State} (h : s.ph = .idle ∨ s.ph = .done) : busyFlag s = false := by
  rcases h with h | h <;> rw [busyFlag, h] <;> rfl

/-- `t` is the state after the accepted start that the word `c` asks for. -/
inductive AcceptedStart (c : Word) (s : State) : State → Prop
  | started (i : Instr) (level : Nat) (hready : s.ph = .idle ∨ s.ph = .done) (hdec : decode (.cmd c) = .instr i)
      (hlevel : startLevel i = some level) (hfull : s.hcnt.toNat = 80) (hlow : 1 ≤ level) (hhigh : level ≤ 7) :
      AcceptedStart c s (startRun level c s)

section
variable {s : State} (hs : busyFlag s = false)
include hs

/-- Of the gate's answers only the command's own effect can lead into a run. -/
theorem gateCommand_starts {c : Word} {own : State → State} (h : busyFlag (gateCommand c own s) = true) :
    (s.ph = .idle ∨ s.ph = .done) ∧ busyFlag (own s) = true := by
  rcases gateCommand_cases c own s with ⟨-, hg⟩ | ⟨-, hg⟩ | ⟨hready, hg⟩ <;> rw [hg] at h
  · exact absurd h (Bool.eq_false_iff.mp hs)
  · exact absurd h (Bool.eq_false_iff.mp (not_busyFlag_of_err rfl))
  · exact ⟨hready, h⟩

theorem not_busyFlag_acknowledge (c : Word) : busyFlag (acknowledge c s) = false := by
  rcases acknowledge_cases c s with ⟨-, ha⟩ | ⟨-, ha⟩ | ⟨-, ha⟩ | ⟨-, ha⟩ <;> rw [ha]
  · rfl
  · rfl
  · rfl
  · exact hs

/-- A host command that leads into a run is a start command. -/
theorem startLevel_of_exec_command {c : Word} {i : Instr} {t : State} (hc : encode i = .cmd c) (h : exec i s = .next t)
    (ht : busyFlag t = true) : ∃ level, startLevel i = some level := by
  have hkept : busyFlag t = false → ∃ level, startLevel i = some level := fun hf => absurd ht (Bool.eq_false_iff.mp hf)
  cases i <;> cases hc <;> cases h
  case leaf | tree | pow => exact ⟨_, rfl⟩
  case nop => exact hkept hs
  case hclr | hpush => exact hkept (absurd (gateCommand_starts hs ht).2 (Bool.eq_false_iff.mp hs))
  case ack => exact hkept (not_busyFlag_acknowledge hs _)
  case srst => exact hkept rfl

/-- A word that leads into a run from outside one is a start command whose checks have passed. -/
theorem dispatchWord_starts {c : Word} {t : State} (h : dispatchWord c s = .next t) (ht : busyFlag t = true) :
    AcceptedStart c s t := by
  cases hdec : decode (.cmd c) with
  | reject r =>
    rw [dispatchWord_of_reject hdec] at h
    obtain rfl := Host.Outcome.next.inj h
    cases (gateCommand_starts hs ht).2
  | instr i =>
    rw [dispatchWord_of_instr hdec] at h
    have hc := encode_of_decode_cmd hdec
    obtain ⟨level, hlevel⟩ := startLevel_of_exec_command hs hc h ht
    rw [exec_start hlevel hc] at h
    obtain rfl := Host.Outcome.next.inj h
    obtain ⟨hready, hbusy⟩ := gateCommand_starts hs ht
    rw [gateCommand_ready hready]
    rcases startSequence_cases level c s with ⟨-, hseq⟩ | ⟨-, -, hseq⟩ | ⟨hfull, hlow, hhigh, hseq⟩ <;> rw [hseq] at hbusy ⊢
    · cases hbusy
    · cases hbusy
    · exact .started i level hready hdec hlevel hfull hlow hhigh

end

/-- A word that leaves a run under way changes nothing (R208 lines 1, 2 and 4). -/
theorem dispatchWord_keeps_run {c : Word} {s t : State} (hs : busyFlag s = true) (h : dispatchWord c s = .next t)
    (ht : busyFlag t = true) : t = s := by
  rcases dispatchWord_cases c s with ⟨-, hd⟩ | ⟨-, hd⟩ | ⟨-, hd⟩ | ⟨own, hd⟩ <;> rw [hd] at h <;>
    obtain rfl := Host.Outcome.next.inj h
  · rfl
  · rw [acknowledge_busy hs] at ht
    cases ht
  · cases ht
  · rw [gateCommand_busy hs] at ht
    cases ht

/-- The steps that end in a run: the sequencer's and the quiet host's inside it, and an accepted start. -/
theorem step_into_run {s t : State} (h : step s = .next t) (ht : busyFlag t = true) :
    (busyFlag s = true ∧ ∃ ts, sequencerTurn { s with turns := ts } = .next t)
    ∨ (busyFlag s = true ∧ ∃ ts ien rd, t = setHost ts ien rd s)
    ∨ (∃ c rest, s.turns = .host (.write 0 4 c) :: rest ∧ AcceptedStart c { s with turns := rest } t) := by
  rcases step_by_agent h with ⟨ts, hseq⟩ | ⟨ts, ien, rd, rfl⟩ | ⟨ts, rfl⟩ | ⟨c, rest, hturns, hd⟩
  · cases hs : busyFlag s with
    | true => exact .inl ⟨rfl, ts, hseq⟩
    | false =>
      rw [sequencerTurn_of_not_busy (s := { s with turns := ts }) hs] at hseq
      obtain rfl := Host.Outcome.next.inj hseq
      exact absurd ht (Bool.eq_false_iff.mp hs)
  · exact .inr (.inl ⟨ht, ts, ien, rd, rfl⟩)
  · cases ht
  · cases hs : busyFlag s with
    | true =>
      obtain rfl := dispatchWord_keeps_run (s := { s with turns := rest }) hs hd ht
      exact .inr (.inl ⟨rfl, rest, s.ien, s.rdata, rfl⟩)
    | false => exact .inr (.inr ⟨c, rest, hturns, dispatchWord_starts (s := { s with turns := rest }) hs hd ht⟩)

/-! The header, RES and LEAFCNT (R29, R73, R276) -/

/-- Inside a run a sequencer step that does not end it keeps what the run was started with. -/
theorem sameRun_of_sequencerTurn {s t : State} (h : sequencerTurn s = .next t) (ht : busyFlag t = true) : SameRun s t := by
  rcases sequencerTurn_finishes_or_sameRun h with rfl | hsame
  · cases ht
  · exact hsame

/-- Settles O38: of the steps that end in a run, those that began in it keep the header and the start's fields. -/
theorem headerFixedDuringRun : Obligations.HeaderFixedDuringRun := by
  intro s t hstep hs ht
  rcases step_into_run hstep ht with ⟨-, ts, hseq⟩ | ⟨-, ts, ien, rd, rfl⟩ | ⟨c, rest, -, ⟨-, -, hready, -⟩⟩
  · have hsame := sameRun_of_sequencerTurn hseq ht
    exact ⟨hsame.hdr, hsame.hcnt, hsame.rootlvl, hsame.lastop⟩
  · exact ⟨rfl, rfl, rfl, rfl⟩
  · exact absurd hs (Bool.eq_false_iff.mp (not_busyFlag_of_ready (s := s) hready))

/-- RES and LEAFCNT under a command: kept, or those of a reset or of a start. -/
theorem dispatchWord_result {c : Word} {s t : State} (h : dispatchWord c s = .next t) :
    (t.res = s.res ∧ t.leafcnt = s.leafcnt) ∨ t = resetBlock s ∨ AcceptedStart c s t := by
  obtain ⟨u, hu, heffect⟩ := dispatchWord_effect c s
  obtain rfl := Host.Outcome.next.inj (hu.symm.trans h)
  cases heffect with
  | kept | errorLeft | doneLeft | raised | cleared | pushed => exact .inl ⟨rfl, rfl⟩
  | reset => exact .inr (.inl rfl)
  | started level c' hready => exact .inr (.inr (dispatchWord_starts (not_busyFlag_of_ready hready) h rfl))

/-- Settles O39: T_RET of the root among the micro-operations, a start and a reset among the rest. -/
theorem resultWrittenInTwoPlaces : Obligations.ResultWrittenInTwoPlaces := by
  intro s t hstep hres
  rcases step_by_agent hstep with ⟨ts, hseq⟩ | ⟨ts, ien, rd, rfl⟩ | ⟨ts, rfl⟩ | ⟨c, rest, hturns, hd⟩
  · cases MicroStep.of_sequencerTurn hseq with
    | finish hp hsp => exact .inl ⟨hp, hsp, rfl, rfl⟩
    | _ => exact absurd rfl hres
  · exact absurd rfl hres
  · exact .inr (.inr ⟨rfl, rfl, rfl⟩)
  · rcases dispatchWord_result hd with ⟨hkept, -⟩ | rfl | ⟨i, level, hready, hdec, hlevel, -⟩
    · exact absurd hkept hres
    · exact .inr (.inr ⟨rfl, rfl, rfl⟩)
    · exact .inr (.inl ⟨hready, rfl, rfl, c, rest, i, level, hturns, hdec, hlevel⟩)

/-- Settles O41: L_H0 among the micro-operations, a start and a reset among the rest. -/
theorem leafCounterMoves : Obligations.LeafCounterMoves := by
  intro s t hstep hcount
  rcases step_by_agent hstep with ⟨ts, hseq⟩ | ⟨ts, ien, rd, rfl⟩ | ⟨ts, rfl⟩ | ⟨c, rest, hturns, hd⟩
  · cases MicroStep.of_sequencerTurn hseq with
    | lH0 hp => exact .inl ⟨hp, rfl, rfl⟩
    | _ => exact absurd rfl hcount
  · exact absurd rfl hcount
  · exact .inr (.inr ⟨rfl, rfl, rfl⟩)
  · rcases dispatchWord_result hd with ⟨-, hkept⟩ | rfl | ⟨i, level, hready, -⟩
    · exact absurd hkept hcount
    · exact .inr (.inr ⟨rfl, rfl, rfl⟩)
    · exact .inr (.inl ⟨rfl, rfl, hready⟩)

/-! The error record (R33, R263) -/

/-- The record of `s` stands in `t` as it was. -/
structure SameRecord (s t : State) : Prop where
  ph : t.ph = .err ↔ s.ph = .err
  errcode : t.errcode = s.errcode
  errinfo : t.errinfo = s.errinfo

theorem ErrInv.of_sameRecord {s t : State} (hs : ErrInv s) (h : SameRecord s t) : ErrInv t := by
  obtain ⟨hiff, halloc, hinfo⟩ := hs
  refine ⟨?_, h.errcode ▸ halloc, fun hne => h.errinfo.trans (hinfo fun herr => hne (h.ph.mpr herr))⟩
  rw [h.ph, h.errcode, hiff]

/-- In ERR the record holds one of the codes of `ErrorEntry`. -/
theorem ErrInv.of_errorEntry {c : Word} {s t : State} (h : ErrorEntry c s t) : ErrInv t := by
  obtain ⟨e, he⟩ := h
  rcases he with rfl | rfl | rfl | rfl <;> simp [ErrInv]

/-- With the record cleared, any phase but ERR is right. -/
theorem ErrInv.of_cleared {t : State} (hph : t.ph ≠ .err) (hcode : t.errcode = .eNone) (hinfo : t.errinfo = 0) : ErrInv t :=
  ⟨by simp [hph, hcode], by simp [hcode], fun _ => hinfo⟩

/-- No micro-operation touches the record (R260). -/
theorem sequencerTurn_sameRecord {s t : State} (h : sequencerTurn s = .next t) : SameRecord s t := by
  cases hs : busyFlag s with
  | false =>
    rw [sequencerTurn_of_not_busy hs] at h
    exact Host.Outcome.next.inj h ▸ ⟨Iff.rfl, rfl, rfl⟩
  | true =>
    have hserr := (ph_ne_of_busyFlag hs).2.2
    have hph : t.ph = .err ↔ s.ph = .err := iff_of_false (sequencerTurn_ph_ne_err hserr h) hserr
    rcases sequencerTurn_finishes_or_sameRun h with rfl | hsame
    · exact ⟨hph, rfl, rfl⟩
    · exact ⟨hph, hsame.errcode, hsame.errinfo⟩

/-- A command keeps the record, clears it, or enters ERR. -/
theorem CommandEffect.record {s t : State} (h : CommandEffect s t) :
    SameRecord s t ∨ (t.ph ≠ .err ∧ t.errcode = .eNone ∧ t.errinfo = 0) ∨ (s.ph ≠ .err ∧ t.ph = .err) := by
  cases h with
  | kept | cleared | pushed => exact .inl ⟨Iff.rfl, rfl, rfl⟩
  | reset | errorLeft => exact .inr (.inl ⟨Phase.noConfusion, rfl, rfl⟩)
  | doneLeft hdone => exact .inl ⟨iff_of_false Phase.noConfusion (ph_ne_err_of_ready (.inr hdone)), rfl, rfl⟩
  | raised e c hs => exact .inr (.inr ⟨hs, rfl⟩)
  | started level c hready => exact .inl ⟨iff_of_false Phase.noConfusion (ph_ne_err_of_ready hready), rfl, rfl⟩

/-- Settles O43: only a command can touch the record, and what enters ERR is an error entry. -/
theorem stepKeepsErrorRecord : Obligations.StepKeepsErrorRecord := by
  intro s t hs hstep
  rcases step_by_agent hstep with ⟨ts, hseq⟩ | ⟨ts, ien, rd, rfl⟩ | ⟨ts, rfl⟩ | ⟨c, rest, -, hd⟩
  · exact ErrInv.of_sameRecord (s := { s with turns := ts }) hs (sequencerTurn_sameRecord hseq)
  · exact hs
  · exact ErrInv.of_cleared Phase.noConfusion rfl rfl
  · obtain ⟨u, hu, heffect⟩ := dispatchWord_effect c { s with turns := rest }
    obtain rfl := Host.Outcome.next.inj (hu.symm.trans hd)
    rcases heffect.record with hsame | ⟨hph, hcode, hinfo⟩ | ⟨hne, herr⟩
    · exact ErrInv.of_sameRecord (s := { s with turns := rest }) hs hsame
    · exact ErrInv.of_cleared hph hcode hinfo
    · exact ErrInv.of_errorEntry (dispatchWord_errorEntry hne hd herr)

/-! The invariants of a run (R31) -/

/-- The part of R31 that a micro-operation can touch; the rest holds of every state of the same run. -/
structure RunShape (s : State) : Prop where
  level : 1 ≤ s.rootlvl.toNat ∧ s.sp.val + 1 ≤ s.rootlvl.toNat
  below : ∀ d : Fin NFRAMES, d.val < s.sp.val → (frameAt s d).cs.val ≤ 1
  internal : inInternal s.ph → s.sp.val + 2 ≤ s.rootlvl.toNat
  push : s.ph = .tPush → (frameAt s s.sp).cs.val ≤ 1
  cat : s.ph = .cCat → (frameAt s s.sp).cs.val = 2
  loop : inLoop s.ph → 2 ≤ s.dp.n.toNat ∧ s.dp.n.toNat ≤ 6 ∧ 1 ≤ s.dp.i.toNat ∧ s.dp.i.toNat ≤ s.dp.n.toNat
  round : s.ph = .lRnd → s.dp.i.toNat < s.dp.n.toNat

theorem RunInv.shape {s : State} (h : RunInv s) (hb : busyFlag s = true) : RunShape s := by
  obtain ⟨hlevel, hbelow, hinternal, hpush, hcat, hloop, hround, -⟩ := h hb
  exact ⟨hlevel, hbelow, hinternal, hpush, hcat, hloop, hround⟩

theorem RunInv.of_not_busy {s : State} (h : busyFlag s = false) : RunInv s := fun hb => absurd hb (Bool.eq_false_iff.mp h)

/-- Within a run only the shape has to be shown again. -/
theorem RunInv.of_sameRun {s t : State} (hs : RunInv s) (hb : busyFlag s = true) (hsame : SameRun s t) (ht : RunShape t) :
    RunInv t := by
  obtain ⟨-, -, -, -, -, -, -, hfull, hres, hlast⟩ := hs hb
  exact fun _ => ⟨ht.level, ht.below, ht.internal, ht.push, ht.cat, ht.loop, ht.round, hsame.hcnt ▸ hfull,
    hsame.res.trans hres, hsame.lastop ▸ hlast⟩

/-- The phases of which R31 says no more than of the stack. -/
abbrev barePhase (p : Phase) : Prop := p = .lH0 ∨ p = .lCnt ∨ p = .lOut ∨ p = .tDisp ∨ p = .tRet

theorem RunShape.of_barePhase {t : State} (hlevel : 1 ≤ t.rootlvl.toNat ∧ t.sp.val + 1 ≤ t.rootlvl.toNat)
    (hbelow : ∀ d : Fin NFRAMES, d.val < t.sp.val → (frameAt t d).cs.val ≤ 1) (hp : barePhase t.ph) : RunShape t := by
  refine ⟨hlevel, hbelow, ?_, ?_, ?_, ?_, ?_⟩ <;> rcases hp with hp | hp | hp | hp | hp <;> simp [hp]

/-- L_SEL and L_RND add the loop registers. -/
theorem RunShape.of_loop {t : State} (hlevel : 1 ≤ t.rootlvl.toNat ∧ t.sp.val + 1 ≤ t.rootlvl.toNat)
    (hbelow : ∀ d : Fin NFRAMES, d.val < t.sp.val → (frameAt t d).cs.val ≤ 1) (hp : inLoop t.ph)
    (hloop : 2 ≤ t.dp.n.toNat ∧ t.dp.n.toNat ≤ 6 ∧ 1 ≤ t.dp.i.toNat ∧ t.dp.i.toNat ≤ t.dp.n.toNat)
    (hround : t.ph = .lRnd → t.dp.i.toNat < t.dp.n.toNat) : RunShape t := by
  refine ⟨hlevel, hbelow, ?_, ?_, ?_, fun _ => hloop, hround⟩ <;> rcases hp with hp | hp <;> simp [hp]

/-- The phases of an internal node add the room for its children and what is known of its own frame. -/
theorem RunShape.of_internal {t : State} (hlow : 1 ≤ t.rootlvl.toNat)
    (hbelow : ∀ d : Fin NFRAMES, d.val < t.sp.val → (frameAt t d).cs.val ≤ 1) (hp : inInternal t.ph)
    (hroom : t.sp.val + 2 ≤ t.rootlvl.toNat) (hpush : t.ph = .tPush → (frameAt t t.sp).cs.val ≤ 1)
    (hcat : t.ph = .cCat → (frameAt t t.sp).cs.val = 2) : RunShape t := by
  refine ⟨⟨hlow, by omega⟩, hbelow, fun _ => hroom, hpush, hcat, ?_, ?_⟩ <;>
    rcases hp with hp | hp | hp | hp | hp <;> simp [hp]

section
variable {s : State} (hs : RunShape s)
include hs

theorem RunShape.leafCount : RunShape (leafCount s) := by
  obtain ⟨hmin, hmax⟩ := iterCount_bounds s.dp.w
  have hi : (Machine.leafCount s).dp.i.toNat = 1 := rfl
  refine .of_loop hs.level hs.below (.inl rfl) ?_ (fun h => by cases h)
  rw [leafCount_n_toNat, hi]
  omega

theorem RunShape.leafRound (U : Units) (hp : s.ph = .lRnd) : RunShape (leafRound U s) := by
  obtain ⟨hmin, hmax, -⟩ := hs.loop (.inr hp)
  have hlt := hs.round hp
  have hn : (Machine.leafRound U s).dp.n = s.dp.n := rfl
  refine .of_loop hs.level hs.below (.inl rfl) ?_ (fun h => by cases h)
  rw [leafRound_i_toNat, hn]
  omega

theorem RunShape.treeDrift (hp : s.ph = .tDrift) : RunShape (treeDrift s) := by
  refine .of_internal hs.level.1 (fun d hd => ?below) (by decide : inInternal .tPush) (hs.internal (by rw [hp]; decide))
    (fun _ => ?push) (fun h => by cases h)
  case below =>
    have hne : d ≠ s.sp := Fin.ne_of_lt hd
    rw [frameAt_treeDrift, if_neg hne]
    exact hs.below d hd
  case push =>
    have hsp : (Machine.treeDrift s).sp = s.sp := rfl
    rw [hsp, frameAt_treeDrift, if_pos rfl]
    exact Nat.zero_le 1

/-- The child called has room on the stack, and its parent is one more frame below. -/
theorem RunShape.enterChild (hp : s.ph = .tPush) (c : Child) {d : Fin NFRAMES} (hd : d.val = s.sp.val + 1) :
    RunShape (enterChild c d s) := by
  have hroom := hs.internal (by rw [hp]; decide)
  refine .of_barePhase ⟨hs.level.1, ?room⟩ (fun e he => ?below) (by decide : barePhase .lH0)
  case room =>
    rw [enterChild_sp, hd]
    exact hroom
  case below =>
    rw [enterChild_sp] at he
    rw [frameAt_enterChild, if_neg (Fin.ne_of_lt he)]
    rcases Nat.lt_or_ge e.val s.sp.val with hlt | hge
    · exact hs.below e hlt
    · rw [show e = s.sp from Fin.ext (by omega)]
      exact hs.push hp

/-- The parent has one child more, and combines when it was the second. -/
theorem RunShape.leaveChild (c : Child) {p : Fin NFRAMES} (hp : s.sp.val = p.val + 1) : RunShape (leaveChild c p s) := by
  have hcs : (frameAt s p).cs.val ≤ 1 := hs.below p (by omega)
  have hsp : (Machine.leaveChild c p s).sp = p := rfl
  have hcount : (frameAt (Machine.leaveChild c p s) p).cs.val = (frameAt s p).cs.val + 1 := by
    rw [frameAt_leaveChild, if_pos rfl]
    exact finishedChildren_succ hcs
  refine .of_internal hs.level.1 (fun d hd => ?below) ?phase ?room (fun h => ?push) (fun h => ?cat)
  case below =>
    rw [hsp] at hd
    rw [frameAt_leaveChild, if_neg (Fin.ne_of_lt hd)]
    exact hs.below d (by omega)
  case phase =>
    rw [leaveChild_ph]
    split <;> decide
  case room =>
    obtain ⟨-, hlevel⟩ := hs.level
    change p.val + 2 ≤ s.rootlvl.toNat
    omega
  all_goals
    rw [leaveChild_ph] at h
    rw [hsp, hcount]
  case push =>
    have hne : (frameAt s p).cs.val ≠ 1 := fun heq => by simp [heq] at h
    omega
  case cat =>
    have heq : (frameAt s p).cs.val = 1 := by
      by_contra hne
      simp [hne] at h
    omega

/-- A micro-operation into a bare phase that writes no frame. -/
theorem RunShape.of_barePhase_update {t : State}
    (hframe : t = { s with ph := t.ph, leafcnt := t.leafcnt, dp := { t.dp with fr := s.dp.fr } }) (htp : barePhase t.ph) :
    RunShape t := by
  rw [hframe]
  exact .of_barePhase hs.level hs.below htp

/-- The combiner's micro-operations write no frame. -/
theorem RunShape.of_combiner {t : State} (hp : inInternal s.ph)
    (hframe : t = { s with ph := t.ph, dp := { t.dp with fr := s.dp.fr } }) (htp : t.ph = .cR1 ∨ t.ph = .cR2) :
    RunShape t := by
  rw [hframe]
  refine .of_internal hs.level.1 hs.below ?phase (hs.internal hp) (fun h => ?push) (fun h => ?cat)
  case phase => rcases htp with htp | htp <;> rw [htp] <;> decide
  case push => rcases htp with htp | htp <;> cases htp.symm.trans h
  case cat => rcases htp with htp | htp <;> cases htp.symm.trans h

/-- Every micro-operation that stays in the run keeps its shape. -/
theorem MicroStep.shape {t : State} (h : MicroStep s t) (hb : busyFlag s = true) (ht : busyFlag t = true) : RunShape t := by
  cases h with
  | none hidle => exact absurd hb (Bool.eq_false_iff.mp hidle)
  | lH0 => exact hs.of_barePhase_update rfl (by decide : barePhase .lCnt)
  | lCnt => exact hs.leafCount
  | select hp hlt => exact .of_loop hs.level hs.below (.inr rfl) (hs.loop (.inl hp)) fun _ => hlt
  | leave => exact hs.of_barePhase_update rfl (by decide : barePhase .lOut)
  | lRnd hp => exact hs.leafRound _ hp
  | lOut => exact hs.of_barePhase_update (by simp only [leafOut]) (by decide : barePhase .tDisp)
  | terminal => exact hs.of_barePhase_update rfl (by decide : barePhase .tRet)
  | internal hp hlevel =>
    obtain ⟨hlow, hsp⟩ := hs.level
    refine .of_internal hlow (fun d hd => ?_) (by decide : inInternal .tDrift) ?_
      (fun h => by cases h) (fun h => by cases h)
    · exact (frameAt_putFrame_ne s s.sp d _ (Fin.ne_of_lt hd)).symm ▸ hs.below d hd
    · simp only [putFrame_sp, putFrame_rootlvl]
      omega
  | tDrift hp => exact hs.treeDrift hp
  | call hp c d hd => exact hs.enterChild hp c hd
  | finish => cases ht
  | back hp c p hsp => exact hs.leaveChild c hsp
  | cCat hp => exact hs.of_combiner (by rw [hp]; decide) rfl (.inl rfl)
  | cR1 hp => exact hs.of_combiner (by rw [hp]; decide) rfl (.inr rfl)
  | cR2 => exact hs.of_barePhase_update rfl (by decide : barePhase .tRet)

end

theorem lastop_of_startOpcode (i : Instr) : startOpcode i = 0x10 ∨ startOpcode i = 0x11 ∨ startOpcode i = 0x12 := by
  cases i <;> simp [startOpcode]

/-- An accepted start begins a run that meets R31. -/
theorem RunInv.of_acceptedStart {c : Word} {s t : State} (h : AcceptedStart c s t) : RunInv t := by
  obtain ⟨i, level, -, hdec, hlevel, hfull, hlow, hhigh⟩ := h
  have hroot := startRun_rootlvl_toNat hhigh c s
  have hshape : RunShape (startRun level c s) :=
    .of_barePhase (by rw [hroot, startRun_sp]; exact ⟨hlow, hlow⟩) (fun d hd => absurd hd (Nat.not_lt_zero _)) (.inl rfl)
  exact fun _ => ⟨hshape.level, hshape.below, hshape.internal, hshape.push, hshape.cat, hshape.loop, hshape.round, hfull,
    rfl, by rw [startRun_lastop, opcField_start hlevel (encode_of_decode_cmd hdec)]; exact lastop_of_startOpcode i⟩

/-- Settles O44: a step that ends in a run is a micro-operation of it, a quiet access during it, or an accepted start. -/
theorem stepKeepsRunInvariant : Obligations.StepKeepsRunInvariant := by
  intro s t hs hstep
  cases ht : busyFlag t with
  | false => exact .of_not_busy ht
  | true =>
    rcases step_into_run hstep ht with ⟨hb, ts, hseq⟩ | ⟨-, ts, ien, rd, rfl⟩ | ⟨c, rest, -, hstart⟩
    · have hs' : RunInv { s with turns := ts } := hs
      exact hs'.of_sameRun hb (sameRun_of_sequencerTurn hseq ht)
        (MicroStep.shape (hs'.shape hb) (.of_sequencerTurn hseq) hb ht)
    · exact hs
    · exact .of_acceptedStart hstart

/-- Settles O42: reset leaves no run, no error and no count. -/
theorem resetMeetsInvariants : Obligations.ResetMeetsInvariants :=
  ⟨.of_cleared Phase.noConfusion rfl rfl, .of_not_busy rfl, Bool.noConfusion, Phase.noConfusion, Nat.zero_le _⟩

/-! No step of a run faults (R260, R314) -/

section
variable {s : State} (hs : RunShape s)
include hs

theorem RunShape.treePush_next (hp : s.ph = .tPush) : ∃ t, treePush Config.childOrder s = .next t := by
  have hroom := hs.internal (by rw [hp]; decide)
  have hroot := s.rootlvl.isLt
  have hsp : s.sp.val + 1 < NFRAMES := by unfold NFRAMES; omega
  exact ⟨_, treePush_of_childSel (childSel_of_le_one _ (hs.push hp)) hsp⟩

theorem RunShape.treeReturn_next : ∃ t, treeReturn Config.childOrder s = .next t := by
  by_cases hsp : s.sp.val = 0
  · exact ⟨_, treeReturn_root hsp⟩
  · have hparent : s.sp.val = (parentOf s.sp).val + 1 := by simp only [parentOf]; omega
    exact ⟨_, treeReturn_of_childSel hparent (childSel_of_le_one _ (hs.below _ (by omega)))⟩

end

/-- The sequencer always has its step: R31 rules out the two stops of the model (log 11). -/
theorem RunInv.sequencerTurn_next {s : State} (h : RunInv s) : ∃ t, sequencerTurn s = .next t := by
  cases hb : busyFlag s with
  | false => exact ⟨s, sequencerTurn_of_not_busy hb⟩
  | true =>
    have hs := h.shape hb
    rw [sequencerTurn_eq]
    cases hp : s.ph
    case tPush => exact hs.treePush_next hp
    case tRet => exact hs.treeReturn_next
    all_goals exact ⟨_, rfl⟩

/-- A host access of the right shape is always answered (R64, R208). -/
theorem hostAccess_next {a : Access} (ha : a.wellFormed = true) (s : State) : ∃ t, hostAccess a s = .next t := by
  rcases hostAccess_cases a s with ⟨hbad, -⟩ | ⟨off, len, -, -, hacc⟩ | ⟨off, len, v, -, -, hacc⟩
  · exact absurd ha (Bool.eq_false_iff.mp hbad)
  · exact ⟨_, hacc⟩
  · rw [hacc]
    rcases memWrite_cases off v s with ⟨-, hw⟩ | ⟨-, hw⟩ | ⟨-, -, hw⟩ <;> rw [hw]
    · obtain ⟨t, ht, -⟩ := dispatchWord_effect v s
      exact ⟨t, ht⟩
    · exact ⟨_, rfl⟩
    · exact ⟨_, rfl⟩

theorem hostAccess_of_malformed {a : Access} (ha : a.wellFormed = false) (s : State) :
    hostAccess a s = .refused .notAWordAccess := if_neg (Bool.eq_false_iff.mp ha)

/-- Settles O46: the sequencer's turns by `RunInv.sequencerTurn_next`, the host's by the shape of the access. -/
theorem runsNeverFault : Obligations.RunsNeverFault := by
  intro s hinv
  rcases step_cases s with ⟨-, hs⟩ | ⟨a, rest, hturns, hs⟩ | ⟨rest, -, hs⟩ | ⟨rest, -, hs⟩ | ⟨rest, -, -, hs⟩ | ⟨rest, -, -, hs⟩
    <;> rw [hs]
  · exact .inl hinv.sequencerTurn_next
  · cases ha : a.wellFormed with
    | true => exact .inl (hostAccess_next ha _)
    | false => exact .inr ⟨hostAccess_of_malformed ha _, a, rest, hturns, ha⟩
  · exact .inl ⟨_, rfl⟩
  · have hinv' : RunInv { s with turns := rest } := hinv
    exact .inl hinv'.sequencerTurn_next
  · exact .inl hinv.sequencerTurn_next
  · exact .inl ⟨_, rfl⟩

end Sys2Proof.Machine

/-! The count of the leaf hashes (spec/10_state.md R34, spec/60_exceptions.md R276): LEAFCNT is what the stack shows as done. -/

namespace Sys2Proof.Machine

/-! Sums over the path from the root to the current node -/

/-- The sum of `f` over the frames below `n`. -/
def pathSum (f : Fin NFRAMES → Nat) (n : Nat) : Nat := ∑ d, if d.val < n then f d else 0

theorem pathSum_zero (f : Fin NFRAMES → Nat) : pathSum f 0 = 0 := by simp [pathSum]

/-- One more frame on the path. -/
theorem pathSum_succ (f : Fin NFRAMES → Nat) (d : Fin NFRAMES) : pathSum f (d.val + 1) = pathSum f d.val + f d := by
  have hsplit : ∀ e : Fin NFRAMES,
      (if e.val < d.val + 1 then f e else 0) = (if e.val < d.val then f e else 0) + if e = d then f e else 0 := by
    intro e
    rcases Nat.lt_trichotomy e.val d.val with h | h | h
    · rw [if_pos (by omega), if_pos h, if_neg (Fin.ne_of_lt h), Nat.add_zero]
    · rw [if_pos (by omega), if_neg (by omega), if_pos (Fin.ext h), Nat.zero_add]
    · rw [if_neg (by omega), if_neg (by omega), if_neg (Fin.ne_of_gt h)]
  rw [pathSum, Finset.sum_congr rfl fun e _ => hsplit e, Finset.sum_add_distrib, Finset.sum_ite_eq' Finset.univ d f,
    if_pos (Finset.mem_univ d), pathSum]

theorem pathSum_congr {f g : Fin NFRAMES → Nat} {n : Nat} (h : ∀ d : Fin NFRAMES, d.val < n → f d = g d) :
    pathSum f n = pathSum g n :=
  Finset.sum_congr rfl fun d _ => by split <;> simp_all

/-- The node at index `n` counts for twice as much as its child. -/
theorem two_pow_sub_eq_double {level n : Nat} (h : n < level) : 2 ^ (level - n) = 2 * 2 ^ (level - n - 1) := by
  have hexp : level - n = level - n - 1 + 1 := by omega
  rw [hexp, Nat.pow_succ', Nat.add_sub_cancel]

/-- With frames whose shares halve from one to the next, the path leaves the share of the current node (R276). -/
theorem pathSum_le {f : Fin NFRAMES → Nat} {level n : Nat} (hn : n ≤ NFRAMES) (hlevel : n ≤ level)
    (h : ∀ d : Fin NFRAMES, d.val < n → f d ≤ 2 ^ (level - d.val - 1)) : pathSum f n + 2 ^ (level - n) ≤ 2 ^ level := by
  induction n with
  | zero => simp [pathSum_zero]
  | succ n ih =>
    have hlast := h ⟨n, hn⟩ (Nat.lt_succ_self n)
    have hpath := ih (by omega) (by omega) fun d hd => h d (by omega)
    have hsum := pathSum_succ f ⟨n, hn⟩
    have hhalf := two_pow_sub_eq_double (show n < level by omega)
    have hexp : level - (n + 1) = level - n - 1 := by omega
    dsimp only at hlast hsum
    rw [hexp, hsum]
    omega

/-! The count of a state -/

/-- The leaf hashes of the node at frame `d` of the path: its own and those of its finished children. -/
def frameLeaves (s : State) (d : Fin NFRAMES) : Nat :=
  1 + (frameAt s d).cs.val * (2 ^ (s.rootlvl.toNat - d.val - 1) - 1)

theorem leavesDone_eq (s : State) : leavesDone s = pathSum (frameLeaves s) s.sp.val + leavesHere s := by
  rw [leavesDone, ← Fin.sum_univ_def]
  rfl

section
variable {s : State}

theorem leavesHere_lH0 (hp : s.ph = .lH0) : leavesHere s = 0 := by simp [leavesHere, hp]

/-- After L_H0 and until its children are called a node has its own leaf hash. -/
theorem leavesHere_own (hp : s.ph = .lCnt ∨ s.ph = .lSel ∨ s.ph = .lRnd ∨ s.ph = .lOut ∨ s.ph = .tDisp ∨ s.ph = .tDrift) :
    leavesHere s = 1 := by
  rcases hp with hp | hp | hp | hp | hp | hp <;> simp [leavesHere, hp]

/-- Before a call the current node counts like a frame of the path. -/
theorem leavesHere_tPush (hp : s.ph = .tPush) : leavesHere s = frameLeaves s s.sp := by simp [leavesHere, hp, frameLeaves]

/-- From C_CAT on the node's subtree is complete. -/
theorem leavesHere_complete (hp : s.ph = .tRet ∨ s.ph = .cCat ∨ s.ph = .cR1 ∨ s.ph = .cR2) :
    leavesHere s = 2 ^ (s.rootlvl.toNat - s.sp.val) - 1 := by
  rcases hp with hp | hp | hp | hp <;> simp [leavesHere, hp]

/-! The bound (R276) -/

/-- With at most one child finished, a frame's share is at most half of its subtree. -/
theorem frameLeaves_le {d : Fin NFRAMES} (h : (frameAt s d).cs.val ≤ 1) :
    frameLeaves s d ≤ 2 ^ (s.rootlvl.toNat - d.val - 1) := by
  have hpos := Nat.two_pow_pos (s.rootlvl.toNat - d.val - 1)
  rw [frameLeaves]
  obtain hcs | hcs : (frameAt s d).cs.val = 0 ∨ (frameAt s d).cs.val = 1 := by omega
  · rw [hcs]
    omega
  · rw [hcs]
    omega

theorem leavesHere_lt (hs : RunShape s) : leavesHere s < 2 ^ (s.rootlvl.toNat - s.sp.val) := by
  obtain ⟨-, hlevel⟩ := hs.level
  have hdouble := two_pow_sub_eq_double (show s.sp.val < s.rootlvl.toNat by omega)
  have hpos := Nat.two_pow_pos (s.rootlvl.toNat - s.sp.val - 1)
  cases hp : s.ph
  case tPush =>
    have hshare := frameLeaves_le (hs.push hp)
    rw [leavesHere_tPush hp]
    omega
  case tRet | cCat | cR1 | cR2 =>
    rw [leavesHere_complete (by simp [hp])]
    omega
  case lCnt | lSel | lRnd | lOut | tDisp | tDrift =>
    rw [leavesHere_own (by simp [hp])]
    omega
  all_goals
    rw [leavesHere, hp]
    dsimp only
    omega

/-- The stack never shows more leaf hashes than the largest tree has nodes. -/
theorem leavesDone_le (hs : RunShape s) : leavesDone s ≤ 127 := by
  obtain ⟨-, hlevel⟩ := hs.level
  have hpath := pathSum_le (f := frameLeaves s) (Nat.le_of_lt s.sp.isLt) (Nat.le_of_succ_le hlevel) fun d hd =>
    frameLeaves_le (hs.below d hd)
  have hhere := leavesHere_lt hs
  have hroot : 2 ^ s.rootlvl.toNat ≤ 2 ^ 7 := Nat.pow_le_pow_right (by decide) (Nat.le_of_lt_succ s.rootlvl.isLt)
  rw [leavesDone_eq]
  omega

/-! How the count moves -/

/-- A step that keeps the path moves the count by what it does at the current node. -/
theorem leavesDone_of_same_path {t : State} {n : Nat} (hsp : t.sp = s.sp) (hroot : t.rootlvl = s.rootlvl)
    (hframes : ∀ d : Fin NFRAMES, d.val < s.sp.val → frameAt t d = frameAt s d) (hhere : leavesHere t = leavesHere s + n) :
    leavesDone t = leavesDone s + n := by
  have hpath : pathSum (frameLeaves t) s.sp.val = pathSum (frameLeaves s) s.sp.val :=
    pathSum_congr fun d hd => by rw [frameLeaves, frameLeaves, hframes d hd, hroot]
  rw [leavesDone_eq, leavesDone_eq, hsp, hpath, hhere, Nat.add_assoc]

/-- A call moves the node's share from the current node to the path. -/
theorem leavesDone_enterChild (hp : s.ph = .tPush) (c : Child) {d : Fin NFRAMES} (hd : d.val = s.sp.val + 1) :
    leavesDone (enterChild c d s) = leavesDone s := by
  have hframes : ∀ e : Fin NFRAMES, e.val < s.sp.val + 1 → frameLeaves (enterChild c d s) e = frameLeaves s e := by
    intro e he
    have hne : e ≠ d := fun h => absurd (h ▸ he) (by omega)
    rw [frameLeaves, frameAt_enterChild, if_neg hne]
    rfl
  rw [leavesDone_eq, leavesDone_eq, enterChild_sp, hd, pathSum_congr hframes, pathSum_succ, leavesHere_tPush hp,
    leavesHere_lH0 (s := enterChild c d s) rfl, Nat.add_zero]

/-- A parent's own leaf hash, its finished children and one child more, as the current node counts them. -/
theorem leavesHere_leaveChild (c : Child) {p : Fin NFRAMES} (hlevel : p.val + 2 ≤ s.rootlvl.toNat)
    (hcs : (frameAt s p).cs.val ≤ 1) :
    leavesHere (leaveChild c p s) = frameLeaves s p + (2 ^ (s.rootlvl.toNat - p.val - 1) - 1) := by
  have hpos := Nat.two_pow_pos (s.rootlvl.toNat - p.val - 1)
  have hph := leaveChild_ph c p s
  have hsp : (leaveChild c p s).sp = p := rfl
  have hroot : (leaveChild c p s).rootlvl = s.rootlvl := rfl
  obtain h0 | h1 : (frameAt s p).cs.val = 0 ∨ (frameAt s p).cs.val = 1 := by omega
  · rw [if_neg (by omega)] at hph
    rw [leavesHere_tPush hph, hsp, frameLeaves, frameAt_leaveChild, if_pos rfl, hroot, frameLeaves, h0]
    dsimp only
    rw [finishedChildren_succ hcs, h0]
    omega
  · rw [if_pos h1] at hph
    have hdouble := two_pow_sub_eq_double (show p.val < s.rootlvl.toNat by omega)
    rw [leavesHere_complete (.inr (.inl hph)), hsp, hroot, frameLeaves, h1, hdouble]
    omega

/-- A return counts the child's complete subtree at its parent. -/
theorem leavesDone_leaveChild (hs : RunShape s) (hp : s.ph = .tRet) (c : Child) {p : Fin NFRAMES}
    (hsp : s.sp.val = p.val + 1) : leavesDone (leaveChild c p s) = leavesDone s := by
  obtain ⟨-, hlevel⟩ := hs.level
  have hframes : ∀ d : Fin NFRAMES, d.val < p.val → frameLeaves (leaveChild c p s) d = frameLeaves s d := by
    intro d hd
    rw [frameLeaves, frameAt_leaveChild, if_neg (Fin.ne_of_lt hd)]
    rfl
  have hhere := leavesHere_leaveChild c (by omega) (hs.below p (by omega))
  have hexp : s.rootlvl.toNat - (p.val + 1) = s.rootlvl.toNat - p.val - 1 := by omega
  have hnew : (leaveChild c p s).sp = p := rfl
  rw [leavesDone_eq, leavesDone_eq, hnew, pathSum_congr hframes, hhere, hsp, pathSum_succ,
    leavesHere_complete (.inl hp), hsp, hexp, Nat.add_assoc]

end

/-- `t` has counted as many more leaf hashes as its stack shows more than that of `s`. -/
def CountsAlong (s t : State) : Prop :=
  ∃ n, n ≤ 1 ∧ t.leafcnt = s.leafcnt + BitVec.ofNat 32 n ∧ leavesDone t = leavesDone s + n

/-- A micro-operation that counts nothing and keeps the stack. -/
theorem CountsAlong.of_update {s t : State}
    (hframe : t = { s with ph := t.ph, dp := { t.dp with fr := s.dp.fr } }) (hhere : leavesHere t = leavesHere s) :
    CountsAlong s t := by
  refine ⟨0, by decide, by rw [hframe]; simp, leavesDone_of_same_path ?_ ?_ ?_ hhere⟩ <;> rw [hframe]
  exact fun _ _ => rfl

/-- Every micro-operation of a run counts along: L_H0 one, every other one none. -/
theorem MicroStep.countsAlong {s t : State} (h : MicroStep s t) (hs : RunShape s) (ht : busyFlag t = true) :
    CountsAlong s t := by
  cases h with
  | none => exact ⟨0, by decide, by simp, rfl⟩
  | lH0 hp => exact ⟨1, by decide, rfl, leavesDone_of_same_path rfl rfl (fun _ _ => rfl) (by rw [leavesHere_lH0 hp]; rfl)⟩
  | lCnt hp | select hp | leave hp | lRnd hp =>
    exact .of_update rfl (by rw [leavesHere_own (s := s) (by simp [hp])]; rfl)
  | lOut hp => exact .of_update (by simp only [leafOut]) (by rw [leavesHere_own (s := s) (by simp [hp])]; rfl)
  | terminal hp hlevel =>
    refine .of_update rfl ?_
    rw [leavesHere_own (s := s) (by simp [hp]), leavesHere_complete (.inl rfl)]
    simp [hlevel]
  | internal hp =>
    refine ⟨0, by decide, by simp, leavesDone_of_same_path rfl rfl (fun d hd => ?_) ?_⟩
    · exact frameAt_putFrame_ne s s.sp d _ (Fin.ne_of_lt hd)
    · rw [leavesHere_own (s := s) (by simp [hp])]
      rfl
  | tDrift hp =>
    refine ⟨0, by decide, by simp [treeDrift], leavesDone_of_same_path rfl rfl (fun d hd => ?_) ?_⟩
    · rw [frameAt_treeDrift, if_neg (Fin.ne_of_lt hd)]
    · have hsp : (treeDrift s).sp = s.sp := rfl
      rw [leavesHere_own (s := s) (by simp [hp]), leavesHere_tPush (s := treeDrift s) rfl, frameLeaves, hsp,
        frameAt_treeDrift, if_pos rfl, driftFrame]
      simp
  | call hp c d hd => exact ⟨0, by decide, by simp [enterChild], leavesDone_enterChild hp c hd⟩
  | finish => cases ht
  | back hp c p hsp => exact ⟨0, by decide, by simp [leaveChild], leavesDone_leaveChild hs hp c hsp⟩
  | cCat hp | cR1 hp | cR2 hp =>
    refine .of_update rfl ?_
    rw [leavesHere_complete (s := s) (by simp [hp])]
    rfl

/-- Counting along keeps LEAFCNT equal to what the stack shows, as 127 is far from the register's end. -/
theorem CountsAlong.leafcnt_toNat {s t : State} (h : CountsAlong s t) (hs : RunShape s)
    (hcount : s.leafcnt.toNat = leavesDone s) : t.leafcnt.toNat = leavesDone t := by
  obtain ⟨n, hn, hleaf, hdone⟩ := h
  have hbound := leavesDone_le hs
  rw [hleaf, hdone, BitVec.toNat_add, BitVec.toNat_ofNat, hcount]
  omega

theorem leavesDone_startRun (level : Nat) (c : Word) (s : State) : leavesDone (startRun level c s) = 0 := by
  have hsp : (startRun level c s).sp.val = 0 := rfl
  rw [leavesDone_eq, leavesHere_lH0 (s := startRun level c s) rfl, hsp, pathSum_zero]

/-- At its last step a run has counted every node of its tree. -/
theorem leavesDone_of_root_return {s : State} (hp : s.ph = .tRet) (hsp : s.sp = 0) :
    leavesDone s = 2 ^ s.rootlvl.toNat - 1 := by
  have hroot : s.sp.val = 0 := congrArg Fin.val hsp
  rw [leavesDone_eq, leavesHere_complete (.inl hp), hroot, pathSum_zero, Nat.zero_add, Nat.sub_zero]

/-- During a run LEAFCNT follows the stack. -/
theorem step_keeps_count {s t : State} (hinv : RunInv s) (hs : LeafInv s) (h : step s = .next t) (ht : busyFlag t = true) :
    t.leafcnt.toNat = leavesDone t := by
  obtain ⟨hcount, -, -⟩ := hs
  rcases step_into_run h ht with ⟨hb, ts, hseq⟩ | ⟨hb, ts, ien, rd, rfl⟩ | ⟨c, rest, -, ⟨-, level, -⟩⟩
  · have hinv' : RunInv { s with turns := ts } := hinv
    have hshape := hinv'.shape hb
    exact ((MicroStep.of_sequencerTurn hseq).countsAlong hshape ht).leafcnt_toNat hshape (hcount hb)
  · exact hcount hb
  · exact (leavesDone_startRun level c _).symm

/-- The steps that end in DONE: the root's return, and those that began there and keep the count and the level (R71). -/
theorem step_into_done {s t : State} (h : step s = .next t) (ht : t.ph = .done) :
    (s.ph = .tRet ∧ s.sp = 0 ∧ t.leafcnt = s.leafcnt ∧ t.rootlvl = s.rootlvl)
    ∨ (s.ph = .done ∧ t.leafcnt = s.leafcnt ∧ t.rootlvl = s.rootlvl) := by
  obtain ⟨-, hentry, hkept⟩ := doneMeansResultFinal s t h ht
  by_cases hs : s.ph = .done
  · obtain ⟨-, hleaf, hroot, -⟩ := hkept hs
    exact .inr ⟨hs, hleaf, hroot⟩
  · obtain ⟨hp, hsp, -⟩ := hentry hs
    refine .inl ⟨hp, hsp, ?_⟩
    rcases step_by_agent h with ⟨ts, hseq⟩ | ⟨ts, ien, rd, rfl⟩ | ⟨ts, rfl⟩ | ⟨c, rest, -, hd⟩
    · have hb : busyFlag { s with turns := ts } = true := busyFlag_of_busyPhase hp rfl
      rcases sequencerTurn_finishes_or_busy hb hseq with ⟨-, -, rfl⟩ | hbusy
      · exact ⟨rfl, rfl⟩
      · exact absurd ht (ph_ne_of_busyFlag hbusy).2.1
    · exact ⟨rfl, rfl⟩
    · cases ht
    · obtain ⟨u, hu, heffect⟩ := dispatchWord_effect c { s with turns := rest }
      obtain rfl := Host.Outcome.next.inj (hu.symm.trans hd)
      cases heffect with
      | kept | cleared | pushed => exact ⟨rfl, rfl⟩
      | reset | errorLeft | doneLeft | raised | started => cases ht

/-- Settles O45: `step_keeps_count` during the run; at its end the count is complete, and outside a run LEAFCNT moves only to
zero. -/
theorem stepKeepsLeafCount : Obligations.StepKeepsLeafCount := by
  intro s t hinv hs hstep
  have hinv' := stepKeepsRunInvariant s t hinv hstep
  have hcount := step_keeps_count hinv hs hstep
  obtain ⟨hscount, hsdone, hsbound⟩ := hs
  refine ⟨hinv', hcount, fun hdone => ?done, ?bound⟩
  case done =>
    rcases step_into_done hstep hdone with ⟨hp, hsp, hleaf, hroot⟩ | ⟨hp, hleaf, hroot⟩ <;> rw [hleaf, hroot]
    · have hb := busyFlag_of_busyPhase hp rfl
      exact ⟨(hinv.shape hb).level.1, (hscount hb).trans (leavesDone_of_root_return hp hsp)⟩
    · exact hsdone hp
  case bound =>
    by_cases hkept : t.leafcnt = s.leafcnt
    · rwa [hkept]
    · rcases leafCounterMoves s t hstep hkept with ⟨-, hp, -⟩ | ⟨hzero, -⟩ | ⟨hzero, -⟩
      · have hb := busyFlag_of_busyPhase hp rfl
        rw [hcount hb]
        exact leavesDone_le (hinv'.shape hb)
      · simp [hzero]
      · simp [hzero]

end Sys2Proof.Machine

/-! The register space and one step on it (spec/20_memory.md R61 to R64, R70, spec/60_exceptions.md R268), the values after
reset (spec/10_state.md R40) and the two stops of the model. -/

namespace Sys2Proof.Machine

/-! Host accesses (R62, R64) -/

/-- A host read of one aligned word gives the word of the register map and takes its turn (R62). -/
theorem step_of_read {s : State} {off : Nat} {rest : List Turn} (h : s.turns = .host (.read off 4) :: rest)
    (ha : off % 4 = 0) (hr : off ≤ 0xFFC) : step s = .next { s with turns := rest, rdata := some (memRead s off) } := by
  have hwf : (Access.read off 4).wellFormed = true := by simp [Access.wellFormed, wordShape, ha, hr]
  exact (step_of_turn h).trans (if_pos hwf)

/-- Settles O32: each register stands at its offset, and the other offsets are reserved. -/
theorem hostReadReturnsRegister : Obligations.HostReadReturnsRegister := by
  intro s off rest hturns halign hrange
  have hreg : ∀ r, off = regOffset r → memRead s off = readReg s r := fun r h => h ▸ memRead_regOffset s r
  refine ⟨memRead s off, step_of_read hturns halign hrange, hreg .cmd, hreg .status, fun h => ?errcode, hreg .errinfo,
    fun h => ?hcnt, hreg .leafcnt, fun h => ?ien, fun j => hreg (.res j), fun j => hreg (.hdrw j),
    fun h => memRead_reserved s h⟩
  case errcode => rw [hreg .errcode h]; exact BitVec.toNat_setWidth_of_le (by decide)
  case hcnt => rw [hreg .hcnt h]; exact BitVec.toNat_setWidth_of_le (by decide)
  case ien => rw [hreg .ien h]; exact BitVec.toNat_setWidth_of_le (by decide)

/-- An access with a wrong length or offset is not well formed. -/
theorem not_wordShape {off len : Nat} (h : len ≠ 4 ∨ off % 4 ≠ 0 ∨ 0xFFC < off) : wordShape off len = false := by
  simp only [wordShape, Bool.and_eq_false_iff, beq_eq_false_iff_ne, decide_eq_false_iff_not]
  omega

/-- Settles O34: such an access is not well formed, and `hostAccess` refuses it. -/
theorem malformedAccessIsRefused : Obligations.MalformedAccessIsRefused := by
  intro s a rest hturns hbad
  have hwf : a.wellFormed = false := by
    cases a with
    | read off len => exact not_wordShape (hbad off len 0 (.inl rfl))
    | write off len v => exact not_wordShape (hbad off len v (.inr rfl))
  exact (step_of_turn hturns).trans (hostAccess_of_malformed hwf _)

/-! Whose turn it is (R11, R70) -/

/-- The busy phases are those with a micro-operation (R96). -/
theorem busyFlag_iff_decode (s : State) : busyFlag s = true ↔ ∃ i, decode (.phase s.ph.code) = .instr i := by
  unfold busyFlag
  cases s.ph
  case idle | done | err => exact iff_of_false (by decide) fun ⟨i, h⟩ => by cases h
  all_goals exact iff_of_true rfl ⟨_, rfl⟩

theorem sequencerTurn_of_decode {s : State} {i : Instr} (h : decode (.phase s.ph.code) = .instr i) :
    sequencerTurn s = exec i s := by
  rw [sequencerTurn, h]

/-- Settles O31, by the kind of the next turn. -/
theorem stepRunsDecodedInstruction : Obligations.StepRunsDecodedInstruction := by
  refine ⟨fun s c rest i hturns hdec _ => ?write, fun s i hdec _ => ⟨fun hturns => ?own, fun rest hturns => ?seq,
    fun rest hturns => ?wait⟩, fun s hp => ?rest, busyFlag_iff_decode⟩
  case write => rw [step_of_command hturns, dispatchWord_of_instr hdec]
  case own => rw [step_of_no_turns hturns, sequencerTurn_of_decode hdec]
  case seq => exact (step_of_turn hturns).trans (sequencerTurn_of_decode (s := { s with turns := rest }) hdec)
  case wait => rw [step_of_wait_busy hturns ((busyFlag_iff_decode s).mpr ⟨i, hdec⟩), sequencerTurn_of_decode hdec]
  case rest =>
    have hb : busyFlag s = false := by
      rcases hp with hp | hp | hp
      · exact not_busyFlag_of_ready (.inl hp)
      · exact not_busyFlag_of_ready (.inr hp)
      · exact not_busyFlag_of_err hp
    exact ⟨fun hturns => (step_of_no_turns hturns).trans (sequencerTurn_of_not_busy hb),
      fun rest hturns => (step_of_turn hturns).trans (sequencerTurn_of_not_busy (s := { s with turns := rest }) hb),
      fun rest hturns => step_of_wait_ready hturns hb⟩

/-! The interrupt line (R268) -/

/-- Settles O37: the two enables are the two bits of IEN, and PH is one phase at a time. -/
theorem interruptLine : Obligations.InterruptLine := by
  intro s
  have hlow : s.ien.getLsbD 0 = decide (s.ien.toNat % 2 = 1) := by
    rw [BitVec.getLsbD, Nat.testBit_zero]
  have hhigh : s.ien.getLsbD 1 = decide (s.ien.toNat / 2 = 1) := by
    have hien := s.ien.isLt
    rw [BitVec.getLsbD, Nat.testBit_eq_decide_div_mod_eq, Nat.pow_one, Nat.mod_eq_of_lt (by omega)]
  refine ⟨?_, fun ⟨hdone, herr⟩ => ?_⟩
  · rw [irqLine, doneFlag_eq_decide, errFlag_eq_decide, hlow, hhigh]
    simp
  · rw [doneFlag_eq_decide, decide_eq_true_iff] at hdone
    rw [errFlag_eq_decide, hdone] at herr
    cases herr

/-! Reset and the stops -/

/-- Settles O10, register by register; STATUS and IRQ as after any reset. -/
theorem resetStateValues : Obligations.ResetStateValues := by
  obtain ⟨-, -, hirq⟩ := flags_of_idle (s := State.reset) rfl
  exact ⟨rfl, rfl, rfl, rfl, rfl, fun j => Vector.getElem_replicate j.isLt, fun j => Vector.getElem_replicate j.isLt, rfl,
    rfl, rfl, rfl, hirq, statusWord_resetBlock State.reset⟩

/-- No child is selected once both are finished (R154). -/
theorem childSel_of_eq_two {cs : Fin 3} (h : cs.val = 2) (o : ChildOrder) : childSel o cs = none := by
  revert cs
  cases o <;> decide

/-- Settles O27: `child_sel` is undefined at CS = 2, and no frame stands above FR[6]. -/
theorem callAndReturnStops : Obligations.CallAndReturnStops := by
  refine fun s => ⟨fun hcs => ?push, fun hcs hsp => ?overflow, fun p hsp hcs => ?back⟩
  case push =>
    rw [exec_tPush, treePush, childSel_of_eq_two hcs]
  case overflow =>
    have hfull : ¬ s.sp.val + 1 < NFRAMES := by unfold NFRAMES; omega
    simp only [exec_tPush, treePush, childSel_of_le_one _ hcs, dif_neg hfull]
  case back =>
    have hne : s.sp.val ≠ 0 := by omega
    rw [exec_tRet, treeReturn, if_neg hne, parentOf_eq hsp, childSel_of_eq_two hcs]

end Sys2Proof.Machine

/-! The assembler's lines (spec/30_encoding.md R101, R102) and the loading of a header (spec/70_reset_and_hazards.md R303). -/

namespace Sys2Proof.Machine

/-- A command word as R91 writes it: the opcode, with ARG moved up a byte. -/
theorem commandWord_eq_or (opc arg : Byte) : commandWord opc arg = opc.setWidth 32 ||| (arg.setWidth 32 <<< 8) := by
  apply BitVec.eq_of_toNat_eq
  have hopc := opc.isLt
  have harg := arg.isLt
  have hor := Nat.two_pow_add_eq_or_of_lt hopc arg.toNat
  rw [commandWord_toNat, BitVec.toNat_or, BitVec.toNat_shiftLeft, BitVec.toNat_setWidth_of_le (by decide),
    BitVec.toNat_setWidth_of_le (by decide), Nat.shiftLeft_eq, Nat.mod_eq_of_lt (by omega), Nat.or_comm,
    Nat.mul_comm _ (2 ^ 8), ← hor]

/-- Settles O57: the words by `commandWord_eq_or`, the offsets by the register map. -/
theorem assemblerWords : Obligations.AssemblerWords := by
  refine ⟨rfl, rfl, fun b => ?_, rfl, fun l => ?_, rfl, rfl, rfl, fun _ => rfl, rfl, fun r => ⟨rfl, regAt_regOffset r⟩,
    fun _ => rfl⟩
  · rw [assembleLine, writeCmd, commandWord_eq_or]
    rfl
  · rw [assembleLine, writeCmd, commandWord_eq_or]
    rfl

/-! `hload` (R102) -/

/-- The state after the bytes `bs` have been pushed, in order. -/
def pushBytes (bs : List Byte) (s : State) : State := bs.foldl (fun u b => pushByte b u) s

theorem pushBytes_cons (b : Byte) (bs : List Byte) (s : State) : pushBytes (b :: bs) s = pushBytes bs (pushByte b s) := rfl

/-- Pushing writes HDR and HCNT only (R202). -/
theorem pushBytes_frame (bs : List Byte) (s : State) :
    pushBytes bs s = { s with hdr := (pushBytes bs s).hdr, hcnt := (pushBytes bs s).hcnt } := by
  induction bs generalizing s with
  | nil => rfl
  | cons b bs ih =>
    rw [pushBytes_cons]
    exact ih (pushByte b s)

/-- One byte pushed extends the bytes stored so far by it. -/
theorem pushByte_stored (b : Byte) {s : State} (h : s.hcnt.toNat < 80) :
    (pushByte b s).hdr.toList.take (s.hcnt.toNat + 1) = s.hdr.toList.take s.hcnt.toNat ++ [b] := by
  rw [pushByte_hdr, dif_pos h, Vector.toList_set, List.take_add_one, List.take_set_of_le (Nat.le_refl _)]
  simp [h]

/-- As long as they fit, the bytes pushed are counted and stand in order behind those stored before. -/
theorem pushBytes_stored {bs : List Byte} {s : State} (h : s.hcnt.toNat + bs.length ≤ 80) :
    (pushBytes bs s).hcnt.toNat = s.hcnt.toNat + bs.length
      ∧ (pushBytes bs s).hdr.toList.take (s.hcnt.toNat + bs.length) = s.hdr.toList.take s.hcnt.toNat ++ bs := by
  induction bs generalizing s with
  | nil => exact ⟨rfl, (List.append_nil _).symm⟩
  | cons b bs ih =>
    rw [List.length_cons] at h ⊢
    have hcount : (pushByte b s).hcnt.toNat = s.hcnt.toNat + 1 := by
      rw [pushByte_hcnt_toNat]
      omega
    obtain ⟨hlen, hbytes⟩ := ih (s := pushByte b s) (by rw [hcount]; omega)
    rw [hcount, Nat.add_assoc, Nat.add_comm 1] at hlen hbytes
    rw [pushByte_stored b (by omega), List.append_assoc] at hbytes
    exact ⟨hlen, hbytes⟩

section
variable {s : State} (hready : s.ph = .idle ∨ s.ph = .done)
include hready

/-- The step that takes the write of an HPUSH word in IDLE and DONE. -/
theorem step_of_hpush {b : Byte} {rest : List Turn} (hturns : s.turns = writeCmd (commandWord 0x02 b) :: rest) :
    step s = .next (pushByte b { s with turns := rest }) := by
  rw [step_of_command hturns, dispatchWord_of_instr (decode_hpush b), exec_hpush,
    gateCommand_ready (s := { s with turns := rest }) hready]

/-- The step that takes the write of the HCLR word in IDLE and DONE. -/
theorem step_of_hclr {rest : List Turn} (hturns : s.turns = writeCmd (commandWord 0x01 0) :: rest) :
    step s = .next (clearCounter { s with turns := rest }) := by
  rw [step_of_command hturns, dispatchWord_of_instr (decode_encode .hclr), exec_hclr,
    gateCommand_ready (s := { s with turns := rest }) hready]

/-- The turns of `hload` behind its HCLR push their bytes. -/
theorem runSteps_hpush {bs : List Byte} {rest : List Turn}
    (hturns : s.turns = (bs.map fun b => writeCmd (commandWord 0x02 b)) ++ rest) :
    runSteps bs.length s = .next (pushBytes bs { s with turns := rest }) := by
  induction bs generalizing s with
  | nil =>
    obtain rfl : s.turns = rest := hturns
    rfl
  | cons b bs ih =>
    rw [List.length_cons, runSteps_succ (step_of_hpush hready hturns)]
    exact ih (s := pushByte b { s with turns := _ }) hready rfl

end

/-- Settles O58: HCLR empties the buffer, so the eighty bytes fill it. -/
theorem hloadLoadsHeader : Obligations.HloadLoadsHeader := by
  intro s bs rest hready hlen hturns
  have hclear := step_of_hclr hready (hturns.trans (List.cons_append ..))
  have hpush := runSteps_hpush (s := clearCounter { s with turns := _ }) (bs := bs) (rest := rest) hready rfl
  obtain ⟨hcount, hbytes⟩ := pushBytes_stored (bs := bs) (s := clearCounter { s with turns := rest })
    (by simp [hlen])
  have hzero : (clearCounter { s with turns := rest }).hcnt.toNat = 0 := rfl
  rw [hzero, hlen, Nat.zero_add] at hcount hbytes
  have hfull : (pushBytes bs (clearCounter { s with turns := rest })).hcnt = 80 := BitVec.eq_of_toNat_eq hcount
  refine ⟨pushBytes bs (clearCounter { s with turns := rest }), ?run, ?frame, ?bytes, ?hrdy⟩
  case run =>
    rw [show 81 = bs.length + 1 by omega, runSteps_succ hclear]
    exact hpush
  case frame =>
    have hframe := pushBytes_frame bs (clearCounter { s with turns := rest })
    rw [hfull] at hframe
    exact hframe
  case bytes => rwa [List.take_of_length_le (by simp), List.take_zero, List.nil_append] at hbytes
  case hrdy => rw [hrdyFlag_eq_decide, hcount]; rfl

end Sys2Proof.Machine

/-! The datapath is never observable (spec/10_state.md R31 (d), R41): what a run reads of the datapath it has written itself,
from the header and the level alone. -/

namespace Sys2Proof.Machine

/-! Live data: what the rest of a run reads -/

/-- The digest a child has filed in a frame (R153). -/
def filedDigest : Child → Frame → Digest
  | .left, f => f.left
  | .right, f => f.right

/-- Two frames that agree in all a node reads once its children are being evaluated: a child's digest is read only after the
child has filed it. -/
structure SameCall (o : ChildOrder) (f g : Frame) : Prop where
  self : f.self = g.self
  n1 : f.n1 = g.n1
  n2 : f.n2 = g.n2
  cs : f.cs = g.cs
  first : f.cs = 1 → filedDigest (firstChild o) f = filedDigest (firstChild o) g

/-- The two states agree in what the micro-operations from the current phase on read of the datapath and of the current
frame. -/
def SameLive (s t : State) : Prop :=
  let f := frameAt s s.sp
  let g := frameAt t s.sp
  match s.ph with
  | .lH0 => f.nonce = g.nonce
  | .lCnt | .lOut => f.nonce = g.nonce ∧ s.dp.w = t.dp.w
  | .lSel => f.nonce = g.nonce ∧ s.dp.w = t.dp.w ∧ s.dp.n = t.dp.n ∧ s.dp.i = t.dp.i
  | .lRnd => f.nonce = g.nonce ∧ s.dp.w = t.dp.w ∧ s.dp.n = t.dp.n ∧ s.dp.i = t.dp.i ∧ s.dp.k = t.dp.k
  | .tDisp => f.nonce = g.nonce ∧ s.dp.ld = t.dp.ld
  | .tDrift => f.nonce = g.nonce ∧ f.self = g.self
  | .tPush => SameCall Config.childOrder f g
  | .cCat => f.self = g.self ∧ f.left = g.left ∧ f.right = g.right
  | .cR1 => s.dp.cb = t.dp.cb
  | .cR2 => s.dp.t32 = t.dp.t32
  | .tRet => s.dp.ret = t.dp.ret
  | .idle | .done | .err => True

/-- Two states the host cannot tell apart, now or later. -/
structure Indistinguishable (s t : State) : Prop where
  view : hostView s = hostView t
  below : busyFlag s = true → ∀ d : Fin NFRAMES, d.val < s.sp.val → SameCall Config.childOrder (frameAt s d) (frameAt t d)
  live : SameLive s t

/-- The state with another datapath and reset count. -/
def withDatapath (d : Datapath) (r : Nat) (s : State) : State := { s with dp := d, resets := r }

/-- States of one view differ in the datapath and the reset count only. -/
theorem eq_withDatapath_of_hostView {s t : State} (h : hostView s = hostView t) : t = withDatapath t.dp t.resets s := by
  have hback : t = withDatapath t.dp t.resets (hostView t) := rfl
  rw [hback, ← h]
  rfl

theorem sameLive_of_tPush {s t : State} (hp : s.ph = .tPush)
    (h : SameCall Config.childOrder (frameAt s s.sp) (frameAt t s.sp)) : SameLive s t := by
  simpa only [SameLive, hp] using h

theorem sameLive_of_cCat {s t : State} (hp : s.ph = .cCat) (hself : (frameAt s s.sp).self = (frameAt t s.sp).self)
    (hleft : (frameAt s s.sp).left = (frameAt t s.sp).left) (hright : (frameAt s s.sp).right = (frameAt t s.sp).right) :
    SameLive s t := by
  simpa only [SameLive, hp] using And.intro hself (And.intro hleft hright)

/-- A state outside a run has no live data. -/
theorem sameLive_of_not_busy {s : State} (h : busyFlag s = false) (t : State) : SameLive s t := by
  rw [busyFlag] at h
  unfold SameLive
  cases hp : s.ph <;> rw [hp] at h
  case idle | done | err => exact trivial
  all_goals cases h

theorem Indistinguishable.of_not_busy {s t : State} (h : busyFlag s = false) (hview : hostView s = hostView t) :
    Indistinguishable s t :=
  ⟨hview, fun hb => absurd hb (Bool.eq_false_iff.mp h), sameLive_of_not_busy h t⟩

/-- Two outcomes that go on alike. -/
inductive SameOutcome : Outcome → Outcome → Prop
  | next {s t : State} (h : Indistinguishable s t) : SameOutcome (.next s) (.next t)
  | fault (r : Fault) : SameOutcome (.fault r) (.fault r)
  | refused (r : Refusal) : SameOutcome (.refused r) (.refused r)

/-! Commands and reads that see nothing of the datapath, in any two states of one view -/

theorem indistinguishable_raiseError (e : ErrCode) (c : Word) (s : State) (d : Datapath) (r : Nat) :
    Indistinguishable (raiseError e c s) (raiseError e c (withDatapath d r s)) := .of_not_busy rfl rfl

theorem indistinguishable_resetBlock (s : State) (d : Datapath) (r : Nat) :
    Indistinguishable (resetBlock s) (resetBlock (withDatapath d r s)) := .of_not_busy rfl rfl

/-- A run begins with no frame on its path and the nonce of HDR, whatever the datapath held. -/
theorem indistinguishable_startRun (level : Nat) (c : Word) (s : State) (d : Datapath) (r : Nat) :
    Indistinguishable (startRun level c s) (startRun level c (withDatapath d r s)) := by
  refine ⟨rfl, fun _ e he => absurd he (Nat.not_lt_zero _), ?_⟩
  have hframe := (frameAt_startRun level c s 0).trans (if_pos rfl)
  have hframe' := (frameAt_startRun level c (withDatapath d r s) 0).trans (if_pos rfl)
  exact (congrArg Frame.nonce hframe).trans (congrArg Frame.nonce hframe').symm

theorem indistinguishable_startSequence (level : Nat) (c : Word) (s : State) (d : Datapath) (r : Nat) :
    Indistinguishable (startSequence level c s) (startSequence level c (withDatapath d r s)) := by
  rcases startSequence_cases level c s with ⟨hlen, hs⟩ | ⟨hfull, hbad, hs⟩ | ⟨hfull, hlow, hhigh, hs⟩ <;> rw [hs]
  · rw [startSequence_of_bad_length (s := withDatapath d r s) hlen]
    exact indistinguishable_raiseError _ _ s d r
  · rw [startSequence_of_bad_level (s := withDatapath d r s) hfull hbad]
    exact indistinguishable_raiseError _ _ s d r
  · rw [startSequence_accepted (s := withDatapath d r s) hfull hlow hhigh]
    exact indistinguishable_startRun level c s d r

/-- No register shows the datapath (R41, R61). -/
theorem memRead_withDatapath (d : Datapath) (r : Nat) (s : State) (off : Nat) :
    memRead (withDatapath d r s) off = memRead s off := rfl

/-! The micro-operations: each writes what the later ones read -/

theorem fileChild_self (c : Child) (digest : Digest) (f : Frame) : (fileChild c digest f).self = f.self := by
  cases c <;> rfl

/-- A child's return files its digest alike in both frames. -/
theorem SameCall.file_first {o : ChildOrder} {f g : Frame} (h : SameCall o f g) (digest : Digest) (cs : Fin 3) :
    SameCall o { fileChild (firstChild o) digest f with cs := cs } { fileChild (firstChild o) digest g with cs := cs } := by
  cases o <;> exact ⟨h.self, h.n1, h.n2, rfl, fun _ => rfl⟩

/-- After the second child's return the frames agree in all C_CAT reads. -/
theorem SameCall.file_second {o : ChildOrder} {f g : Frame} (h : SameCall o f g) (hcs : f.cs = 1) (digest : Digest) :
    (fileChild (secondChild o) digest f).left = (fileChild (secondChild o) digest g).left
      ∧ (fileChild (secondChild o) digest f).right = (fileChild (secondChild o) digest g).right := by
  have hfirst := h.first hcs
  cases o
  · exact ⟨hfirst, rfl⟩
  · exact ⟨rfl, hfirst⟩

theorem SameCall.childNonce {o : ChildOrder} {f g : Frame} (h : SameCall o f g) (c : Child) :
    childNonce c f = childNonce c g := by
  cases c
  · exact h.n1
  · exact h.n2

/-- T_DRIFT derives both child nonces from what the frames agree in. -/
theorem SameCall.of_driftFrame {f g : Frame} (o : ChildOrder) (hnonce : f.nonce = g.nonce) (hself : f.self = g.self) :
    SameCall o (driftFrame f) (driftFrame g) := by
  refine ⟨hself, ?_, ?_, rfl, fun h => by cases h⟩ <;> simp only [driftFrame, hnonce, hself]

/-- L_OUT writes no frame. -/
theorem frameAt_leafOut (s : State) (d : Fin NFRAMES) : frameAt (leafOut s) d = frameAt s d := by
  simp only [leafOut, frameAt]

theorem leafOut_ld (s : State) : (leafOut s).dp.ld = truncate s.dp.w := by simp only [leafOut]

section
variable {s : State} {d : Datapath} {r : Nat} (h : Indistinguishable s (withDatapath d r s))
include h

theorem Indistinguishable.leafFirstPass (hp : s.ph = .lH0) (U : Units) :
    Indistinguishable (leafFirstPass U s) (leafFirstPass U (withDatapath d r s)) := by
  have hnonce := h.live
  simp only [SameLive, hp] at hnonce
  have hheader : nodeHeader s = nodeHeader (withDatapath d r s) := congrArg (withNonce s.hdr) hnonce
  refine ⟨?_, fun _ => h.below (busyFlag_of_busyPhase hp rfl), hnonce, ?_⟩
  · simp only [Machine.leafFirstPass, callPrimitive, hostView, withDatapath]
  · exact congrArg (fun m : Header => U.h 0 m.toList) hheader

theorem Indistinguishable.leafCount (hp : s.ph = .lCnt) :
    Indistinguishable (leafCount s) (leafCount (withDatapath d r s)) := by
  have hlive := h.live
  simp only [SameLive, hp] at hlive
  obtain ⟨hnonce, hw⟩ := hlive
  refine ⟨?_, fun _ => h.below (busyFlag_of_busyPhase hp rfl), hnonce, hw, ?_, rfl⟩
  · simp only [Machine.leafCount, hostView, withDatapath]
  · exact congrArg (fun w => BitVec.ofNat 3 (iterCount w)) hw

theorem Indistinguishable.leafSelect (hp : s.ph = .lSel) :
    Indistinguishable (leafSelect s) (leafSelect (withDatapath d r s)) := by
  have hbelow := h.below (busyFlag_of_busyPhase hp rfl)
  have hlive := h.live
  simp only [SameLive, hp] at hlive
  obtain ⟨hnonce, hw, hn, hi⟩ := hlive
  rcases leafSelect_cases s with ⟨hlt, hs⟩ | ⟨hle, hs⟩ <;>
    rcases leafSelect_cases (withDatapath d r s) with ⟨hlt', ht⟩ | ⟨hle', ht⟩ <;> rw [hs, ht]
  · exact ⟨rfl, fun _ => hbelow, hnonce, hw, hn, hi, by rw [hw, hi]⟩
  · rw [hn, hi] at hlt
    omega
  · rw [hn, hi] at hle
    omega
  · exact ⟨rfl, fun _ => hbelow, hnonce, hw⟩

theorem Indistinguishable.leafRound (hp : s.ph = .lRnd) (U : Units) :
    Indistinguishable (leafRound U s) (leafRound U (withDatapath d r s)) := by
  have hlive := h.live
  simp only [SameLive, hp] at hlive
  obtain ⟨hnonce, hw, hn, hi, hk⟩ := hlive
  refine ⟨?_, fun _ => h.below (busyFlag_of_busyPhase hp rfl), hnonce, ?_, hn, ?_⟩
  · simp only [Machine.leafRound, callPrimitive, hostView, withDatapath]
  · exact congrArg₂ (fun k (w : WorkDigest) => U.h k w.toList) hk hw
  · exact congrArg (· + 1) hi

theorem Indistinguishable.leafOut (hp : s.ph = .lOut) :
    Indistinguishable (leafOut s) (leafOut (withDatapath d r s)) := by
  have hlive := h.live
  simp only [SameLive, hp] at hlive
  obtain ⟨hnonce, hw⟩ := hlive
  have hframe : (frameAt (Machine.leafOut s) s.sp).nonce = (frameAt (Machine.leafOut (withDatapath d r s)) s.sp).nonce := by
    rw [frameAt_leafOut, frameAt_leafOut, hnonce]
  have hld : (Machine.leafOut s).dp.ld = (Machine.leafOut (withDatapath d r s)).dp.ld := by
    rw [leafOut_ld, leafOut_ld, hw]
  refine ⟨?_, fun _ e he => ?_, hframe, hld⟩
  · simp only [Machine.leafOut, hostView, withDatapath]
  · rw [frameAt_leafOut, frameAt_leafOut]
    exact h.below (busyFlag_of_busyPhase hp rfl) e he

theorem Indistinguishable.treeDispatch (hp : s.ph = .tDisp) :
    Indistinguishable (treeDispatch s) (treeDispatch (withDatapath d r s)) := by
  have hbelow := h.below (busyFlag_of_busyPhase hp rfl)
  have hlive := h.live
  simp only [SameLive, hp] at hlive
  obtain ⟨hnonce, hld⟩ := hlive
  by_cases hlevel : s.rootlvl.toNat = s.sp.val + 1
  · rw [treeDispatch_terminal hlevel, treeDispatch_terminal (s := withDatapath d r s) hlevel]
    exact ⟨rfl, fun _ => hbelow, hld⟩
  · have hframes := frameAt_treeDispatch_internal hlevel
    have hframes' := frameAt_treeDispatch_internal (s := withDatapath d r s) hlevel
    have hself := (hframes s.sp).trans (if_pos rfl)
    have hself' := (hframes' s.sp).trans (if_pos rfl)
    rw [treeDispatch_internal hlevel] at hframes hself ⊢
    rw [treeDispatch_internal (s := withDatapath d r s) hlevel] at hframes' hself' ⊢
    refine ⟨rfl, fun _ e he => ?_, ?_⟩
    · have hne : e ≠ s.sp := Fin.ne_of_lt he
      rw [hframes, hframes', if_neg hne, if_neg (show e ≠ (withDatapath d r s).sp from hne)]
      exact hbelow e he
    · simp only [SameLive]
      constructor
      · exact (congrArg Frame.nonce hself).trans (hnonce.trans (congrArg Frame.nonce hself').symm)
      · exact (congrArg Frame.self hself).trans (hld.trans (congrArg Frame.self hself').symm)

theorem Indistinguishable.treeDrift (hp : s.ph = .tDrift) :
    Indistinguishable (treeDrift s) (treeDrift (withDatapath d r s)) := by
  have hbelow := h.below (busyFlag_of_busyPhase hp rfl)
  have hlive := h.live
  simp only [SameLive, hp] at hlive
  obtain ⟨hnonce, hself⟩ := hlive
  refine ⟨rfl, fun _ e he => ?_, ?_⟩
  · have hne : e ≠ s.sp := Fin.ne_of_lt he
    rw [frameAt_treeDrift, frameAt_treeDrift, if_neg hne, if_neg (show e ≠ (withDatapath d r s).sp from hne)]
    exact hbelow e he
  · have hframe := (frameAt_treeDrift s s.sp).trans (if_pos rfl)
    have hframe' := (frameAt_treeDrift (withDatapath d r s) s.sp).trans (if_pos rfl)
    change SameCall _ (frameAt (Machine.treeDrift s) s.sp) (frameAt (Machine.treeDrift (withDatapath d r s)) s.sp)
    rw [hframe, hframe']
    exact .of_driftFrame _ hnonce hself

/-- The child called is given the same nonce, and its parent is one more frame of the path. -/
theorem Indistinguishable.enterChild (hp : s.ph = .tPush) (c : Child) {e : Fin NFRAMES} (he : e.val = s.sp.val + 1) :
    Indistinguishable (enterChild c e s) (enterChild c e (withDatapath d r s)) := by
  have hbelow := h.below (busyFlag_of_busyPhase hp rfl)
  have hcall := h.live
  simp only [SameLive, hp] at hcall
  refine ⟨rfl, fun _ k hk => ?_, ?_⟩
  · rw [enterChild_sp] at hk
    rw [frameAt_enterChild, frameAt_enterChild, if_neg (Fin.ne_of_lt hk), if_neg (Fin.ne_of_lt hk)]
    rcases Nat.lt_or_ge k.val s.sp.val with hlt | hge
    · exact hbelow k hlt
    · rw [show k = s.sp from Fin.ext (by omega)]
      exact hcall
  · have hframe := (frameAt_enterChild c e e s).trans (if_pos rfl)
    have hframe' := (frameAt_enterChild c e e (withDatapath d r s)).trans (if_pos rfl)
    exact (congrArg Frame.nonce hframe).trans ((hcall.childNonce c).trans (congrArg Frame.nonce hframe').symm)

theorem Indistinguishable.treePush (hp : s.ph = .tPush) :
    SameOutcome (treePush Config.childOrder s) (treePush Config.childOrder (withDatapath d r s)) := by
  have hcall := h.live
  simp only [SameLive, hp] at hcall
  have hcs : childSel Config.childOrder (frameAt s s.sp).cs
      = childSel Config.childOrder (frameAt (withDatapath d r s) (withDatapath d r s).sp).cs := congrArg _ hcall.cs
  rw [Machine.treePush, Machine.treePush, ← hcs]
  cases childSel Config.childOrder (frameAt s s.sp).cs with
  | none => exact .fault _
  | some c =>
    dsimp only
    by_cases hsp : s.sp.val + 1 < NFRAMES
    · rw [dif_pos hsp, dif_pos (show (withDatapath d r s).sp.val + 1 < NFRAMES from hsp)]
      exact .next (h.enterChild hp c rfl)
    · rw [dif_neg hsp, dif_neg (show ¬ (withDatapath d r s).sp.val + 1 < NFRAMES from hsp)]
      exact .fault _

/-- The root's return shows the host the digest both states computed. -/
theorem Indistinguishable.finishRun (hp : s.ph = .tRet) :
    Indistinguishable (finishRun s) (finishRun (withDatapath d r s)) := by
  have hret := h.live
  simp only [SameLive, hp] at hret
  refine .of_not_busy rfl ?_
  rw [Machine.finishRun, Machine.finishRun, hret]
  rfl

/-- A child's return is filed in frames that agree, and leads both parents to the same phase. -/
theorem Indistinguishable.leaveChild (hp : s.ph = .tRet) {c : Child} {p : Fin NFRAMES} (hsp : s.sp.val = p.val + 1)
    (hc : childSel Config.childOrder (frameAt s p).cs = some c) :
    Indistinguishable (leaveChild c p s) (leaveChild c p (withDatapath d r s)) := by
  have hbelow := h.below (busyFlag_of_busyPhase hp rfl)
  have hret := h.live
  simp only [SameLive, hp] at hret
  have hcall := hbelow p (by omega)
  have hframe := (frameAt_leaveChild c p p s).trans (if_pos rfl)
  have hframe' := (frameAt_leaveChild c p p (withDatapath d r s)).trans (if_pos rfl)
  have hph := leaveChild_ph c p s
  have hph' := leaveChild_ph c p (withDatapath d r s)
  rw [← hcall.cs] at hframe' hph'
  rw [← hret] at hframe'
  refine ⟨?view, fun _ e he => ?below, ?live⟩
  case view =>
    have hsame : SameRun s (Machine.leaveChild c p s) := rfl
    have hsame' : SameRun (withDatapath d r s) (Machine.leaveChild c p (withDatapath d r s)) := rfl
    rw [hsame, hsame', hph, hph']
    rfl
  case below =>
    have hne : e ≠ p := Fin.ne_of_lt he
    rw [frameAt_leaveChild, frameAt_leaveChild, if_neg hne, if_neg hne]
    exact hbelow e (Nat.lt_of_lt_of_le he (by change p.val ≤ s.sp.val; omega))
  case live =>
    rcases childSel_cases Config.childOrder (frameAt s p).cs with ⟨hcs, hchild⟩ | ⟨hcs, hchild⟩ | ⟨-, hchild⟩ <;>
      rw [hchild] at hc <;> cases hc
    · rw [hcs] at hph
      refine sameLive_of_tPush hph ?_
      change SameCall _ (frameAt (Machine.leaveChild _ p s) p) (frameAt (Machine.leaveChild _ p (withDatapath d r s)) p)
      rw [hframe, hframe']
      exact hcall.file_first s.dp.ret _
    · rw [hcs] at hph
      obtain ⟨hleft, hright⟩ := hcall.file_second hcs s.dp.ret
      have hsp' : (Machine.leaveChild (secondChild Config.childOrder) p s).sp = p := rfl
      refine sameLive_of_cCat hph ?_ ?_ ?_ <;> rw [hsp', hframe, hframe']
      · exact (fileChild_self _ _ _).trans (hcall.self.trans (fileChild_self _ _ _).symm)
      · exact hleft
      · exact hright

theorem Indistinguishable.treeReturn (hp : s.ph = .tRet) :
    SameOutcome (treeReturn Config.childOrder s) (treeReturn Config.childOrder (withDatapath d r s)) := by
  by_cases hsp : s.sp.val = 0
  · rw [treeReturn_root hsp, treeReturn_root (s := withDatapath d r s) hsp]
    exact .next (h.finishRun hp)
  · have hparent : s.sp.val = (parentOf s.sp).val + 1 := by simp only [parentOf]; omega
    have hcs := (h.below (busyFlag_of_busyPhase hp rfl) (parentOf s.sp) (by omega)).cs
    rcases treeReturn_cases Config.childOrder s with ⟨hroot, -⟩ | ⟨-, c, hc, hret⟩ | ⟨-, hc, hret⟩
    · exact absurd hroot hsp
    · rw [hret, treeReturn_of_childSel (s := withDatapath d r s) hparent (hcs ▸ hc)]
      exact .next (h.leaveChild hp hparent hc)
    · have hc' : childSel Config.childOrder (frameAt (withDatapath d r s) (parentOf s.sp)).cs = none := hcs ▸ hc
      rcases treeReturn_cases Config.childOrder (withDatapath d r s) with ⟨hroot, -⟩ | ⟨-, c, hsome, -⟩ | ⟨-, -, hret'⟩
      · exact absurd hroot hsp
      · cases hc'.symm.trans hsome
      · rw [hret, hret']
        exact .fault _

theorem Indistinguishable.combineCat (hp : s.ph = .cCat) :
    Indistinguishable (combineCat s) (combineCat (withDatapath d r s)) := by
  have hlive := h.live
  simp only [SameLive, hp] at hlive
  obtain ⟨hself, hleft, hright⟩ := hlive
  refine ⟨?_, fun _ => h.below (busyFlag_of_busyPhase hp rfl), ?_⟩
  · simp only [Machine.combineCat, hostView, withDatapath]
  · have hcat : concat3 (frameAt s s.sp).self (frameAt s s.sp).left (frameAt s s.sp).right
        = concat3 (frameAt (withDatapath d r s) s.sp).self (frameAt (withDatapath d r s) s.sp).left
            (frameAt (withDatapath d r s) s.sp).right := by rw [hself, hleft, hright]
    exact hcat

theorem Indistinguishable.combineFirst (hp : s.ph = .cR1) (U : Units) :
    Indistinguishable (combineFirst U s) (combineFirst U (withDatapath d r s)) := by
  have hcb := h.live
  simp only [SameLive, hp] at hcb
  refine ⟨?_, fun _ => h.below (busyFlag_of_busyPhase hp rfl), congrArg (fun cb : Combined => U.c256 cb.toList) hcb⟩
  simp only [Machine.combineFirst, hostView, withDatapath]

theorem Indistinguishable.combineSecond (hp : s.ph = .cR2) (U : Units) :
    Indistinguishable (combineSecond U s) (combineSecond U (withDatapath d r s)) := by
  have ht32 := h.live
  simp only [SameLive, hp] at ht32
  refine ⟨?_, fun _ => h.below (busyFlag_of_busyPhase hp rfl), congrArg (fun t32 : Digest => U.c256 t32.toList) ht32⟩
  simp only [Machine.combineSecond, hostView, withDatapath]

/-- The sequencer's turn leads both states on alike. -/
theorem Indistinguishable.sequencerTurn : SameOutcome (sequencerTurn s) (sequencerTurn (withDatapath d r s)) := by
  have hph : (withDatapath d r s).ph = s.ph := rfl
  rw [sequencerTurn_eq, sequencerTurn_eq, hph]
  cases hp : s.ph
  case idle | done | err => exact .next h
  case lH0 => exact .next (h.leafFirstPass hp _)
  case lCnt => exact .next (h.leafCount hp)
  case lSel => exact .next (h.leafSelect hp)
  case lRnd => exact .next (h.leafRound hp _)
  case lOut => exact .next (h.leafOut hp)
  case tDisp => exact .next (h.treeDispatch hp)
  case tDrift => exact .next (h.treeDrift hp)
  case tPush => exact h.treePush hp
  case tRet => exact h.treeReturn hp
  case cCat => exact .next (h.combineCat hp)
  case cR1 => exact .next (h.combineFirst hp _)
  case cR2 => exact .next (h.combineSecond hp _)

/-! The host's turns -/

theorem Indistinguishable.setHost (ts : List Turn) (ien : BitVec 2) (rd : Option Word) :
    Indistinguishable (setHost ts ien rd s) (setHost ts ien rd (withDatapath d r s)) :=
  ⟨rfl, h.below, h.live⟩

/-- The gate decides by the phase alone. -/
theorem Indistinguishable.gateCommand {c : Word} {own : State → State}
    (hown : s.ph = .idle ∨ s.ph = .done → Indistinguishable (own s) (own (withDatapath d r s))) :
    Indistinguishable (gateCommand c own s) (gateCommand c own (withDatapath d r s)) := by
  rcases gateCommand_cases c own s with ⟨herr, hg⟩ | ⟨hbusy, hg⟩ | ⟨hready, hg⟩ <;> rw [hg]
  · rwa [gateCommand_err (s := withDatapath d r s) herr]
  · rw [gateCommand_busy (s := withDatapath d r s) hbusy]
    exact indistinguishable_raiseError _ _ s d r
  · rw [gateCommand_ready (s := withDatapath d r s) hready]
    exact hown hready

theorem Indistinguishable.acknowledge (c : Word) :
    Indistinguishable (acknowledge c s) (acknowledge c (withDatapath d r s)) := by
  rcases acknowledge_cases c s with ⟨herr, ha⟩ | ⟨hbusy, ha⟩ | ⟨hdone, ha⟩ | ⟨hidle, ha⟩ <;> rw [ha]
  · rw [acknowledge_err (s := withDatapath d r s) herr]
    exact .of_not_busy rfl rfl
  · rw [acknowledge_busy (s := withDatapath d r s) hbusy]
    exact indistinguishable_raiseError _ _ s d r
  · rw [acknowledge_done (s := withDatapath d r s) hdone]
    exact .of_not_busy rfl rfl
  · rwa [acknowledge_idle (s := withDatapath d r s) hidle]

/-- A word written to CMD leads both states on alike. -/
theorem Indistinguishable.dispatchWord (c : Word) :
    SameOutcome (dispatchWord c s) (dispatchWord c (withDatapath d r s)) := by
  cases hdec : decode (.cmd c) with
  | reject reason =>
    rw [dispatchWord_of_reject hdec, dispatchWord_of_reject hdec]
    exact .next (h.gateCommand fun _ => indistinguishable_raiseError _ _ s d r)
  | instr i =>
    rw [dispatchWord_of_instr hdec, dispatchWord_of_instr hdec]
    rcases decode_cmd_instr hdec with rfl | rfl | ⟨b, rfl⟩ | rfl | ⟨level, rfl⟩ | rfl | rfl | rfl
    · exact .next h
    · exact .next (h.gateCommand fun hready => .of_not_busy (not_busyFlag_of_ready hready) rfl)
    · exact .next (h.gateCommand fun hready => .of_not_busy (not_busyFlag_of_ready hready) rfl)
    · exact .next (h.gateCommand fun _ => indistinguishable_startSequence _ _ s d r)
    · exact .next (h.gateCommand fun _ => indistinguishable_startSequence _ _ s d r)
    · exact .next (h.gateCommand fun _ => indistinguishable_startSequence _ _ s d r)
    · exact .next (h.acknowledge _)
    · exact .next (indistinguishable_resetBlock s d r)

theorem Indistinguishable.memWrite (off : Nat) (v : Word) :
    SameOutcome (memWrite off v s) (memWrite off v (withDatapath d r s)) := by
  rcases memWrite_cases off v s with ⟨rfl, hs⟩ | ⟨rfl, hs⟩ | ⟨hcmd, hien, hs⟩ <;> rw [hs]
  · exact h.dispatchWord v
  · exact .next (h.setHost s.turns (v.extractLsb' 0 2) s.rdata)
  · rcases memWrite_cases off v (withDatapath d r s) with ⟨hoff, -⟩ | ⟨hoff, -⟩ | ⟨-, -, ht⟩
    · exact absurd hoff hcmd
    · exact absurd hoff hien
    · rw [ht]
      exact .next h

theorem Indistinguishable.hostAccess (a : Access) :
    SameOutcome (hostAccess a s) (hostAccess a (withDatapath d r s)) := by
  unfold Machine.hostAccess
  split
  · cases a with
    | read off len =>
      dsimp only
      rw [memRead_withDatapath]
      exact .next (h.setHost s.turns s.ien _)
    | write off len v => exact h.memWrite off v
  · exact .refused _

theorem Indistinguishable.takeTurn (t : Turn) (rest : List Turn) :
    SameOutcome (takeTurn t rest s) (takeTurn t rest (withDatapath d r s)) := by
  have hrest : Indistinguishable { s with turns := rest } (withDatapath d r { s with turns := rest }) :=
    h.setHost rest s.ien s.rdata
  cases t with
  | host a => exact hrest.hostAccess a
  | hardReset => exact .next (indistinguishable_resetBlock { s with turns := rest } d r)
  | seq => exact hrest.sequencerTurn
  | wait =>
    cases hb : busyFlag s with
    | true =>
      simp only [Machine.takeTurn, hb, show busyFlag (withDatapath d r s) = true from hb, if_true]
      exact h.sequencerTurn
    | false =>
      have hpoll := h.setHost rest s.ien (some (statusWord s))
      simp only [Machine.takeTurn, hb, show busyFlag (withDatapath d r s) = false from hb, Bool.false_eq_true, if_false]
      exact .next hpoll

end

/-- A step leads two states the host cannot tell apart on alike. -/
theorem Indistinguishable.step {s t : State} (h : Indistinguishable s t) : SameOutcome (step s) (step t) := by
  obtain ⟨d, r, rfl⟩ : ∃ d r, t = withDatapath d r s := ⟨_, _, eq_withDatapath_of_hostView h.view⟩
  have hqueue : (withDatapath d r s).turns = s.turns := rfl
  cases hturns : s.turns with
  | nil =>
    rw [step_of_no_turns hturns, step_of_no_turns (hqueue.trans hturns)]
    exact h.sequencerTurn
  | cons turn rest =>
    rw [step_of_turn hturns, step_of_turn (hqueue.trans hturns)]
    exact h.takeTurn turn rest

theorem Indistinguishable.runSteps {s t : State} (h : Indistinguishable s t) (k : Nat) :
    SameOutcome (runSteps k s) (runSteps k t) := by
  induction k generalizing s t with
  | zero => exact .next h
  | succ k ih =>
    rw [Machine.runSteps, Machine.runSteps]
    have hstep := h.step
    generalize Machine.step s = o, Machine.step t = p at hstep ⊢
    cases hstep with
    | next h' => exact ih h'
    | fault r => exact .fault r
    | refused r => exact .refused r

theorem SameOutcome.view {o p : Outcome} (h : SameOutcome o p) : outcomeView o = outcomeView p := by
  cases h with
  | next h => exact congrArg Host.Outcome.next h.view
  | fault r => rfl
  | refused r => rfl

/-- Settles O55: outside a run there is no live data to agree in, and `Indistinguishable` is kept by every step. -/
theorem datapathIsUnobservable : Obligations.DatapathIsUnobservable := fun k _ _ hs hview =>
  ((Indistinguishable.of_not_busy hs hview).runSteps k).view

end Sys2Proof.Machine
